-- ==== Sys2Proof/Word.lean ====
section
/-! DEFINITION. The word types of the block: a byte (00_scope.md R6), a 16-bit timeout and the 32-bit
bitrate and time words (00_scope.md R4). -/

namespace Sys2Proof

/-- A byte, bits 7 down to 0 (00_scope.md R6). -/
abbrev Byte := BitVec 8

/-- The `timeoutMs` operand, 16 bits unsigned (00_scope.md R4, `W_TIMEOUT`). -/
abbrev Timeout := BitVec 16

/-- A 32-bit unsigned word: the bitrate (`W_BITRATE`) and the millisecond time base (`W_TIME`). -/
abbrev Word32 := BitVec 32

end Sys2Proof
end

