-- ==== Sys2Proof/Syntax.lean ====
section
/-! DEFINITION. The vocabulary of the three ports (20_memory.md R40 to R43) and the one inductive of
instructions: a constructor for each row of spec/opcode_table.json. -/

namespace Sys2Proof

/-- `parityMode` (30_encoding.md R73, 40_parity.md R90). -/
inductive ParityMode
  | even
  | odd
  deriving DecidableEq, Repr

/-- The one value of the `initBus` mode argument (30_encoding.md R76). -/
inductive InitMode
  | slow5Baud
  deriving DecidableEq, Repr

/-- The one value of the `configure` parity argument (30_encoding.md R76). -/
inductive LineParity
  | none
  deriving DecidableEq, Repr

/-- An opaque transport error code: 8 bits, never 0 (20_memory.md R42). -/
structure TErr where
  code : Byte
  nonzero : code ≠ 0
  deriving DecidableEq, Repr

/-- The bytes one `T.receive` returns: 0 to 18 of them (20_memory.md R42). -/
structure RxImage where
  bytes : List Byte := []
  fits : bytes.length ≤ 18 := by decide
  deriving DecidableEq, Repr, Inhabited

/-- The result of `T.initBus` (20_memory.md R42). -/
inductive InitAnswer
  | ok (kb1 kb2 : Byte)
  | err (e : TErr)
  deriving DecidableEq, Repr, Inhabited

/-- The result of `T.send` (20_memory.md R42). -/
inductive SendAnswer
  | ok
  | err (e : TErr)
  deriving DecidableEq, Repr, Inhabited

/-- The result of `T.receive` (20_memory.md R42). -/
inductive RecvAnswer
  | ok (rx : RxImage)
  | err (e : TErr)
  deriving DecidableEq, Repr, Inhabited

/-- A message on its way out; an address of 0 means "unset" (10_state.md R30, 30_encoding.md R62). -/
structure OutMessage where
  payload : List Byte
  dest : Byte
  src : Byte
  deriving DecidableEq, Repr

/-- A received message with its receive timestamp (10_state.md R30). -/
structure InMessage where
  dest : Byte
  src : Byte
  payload : List Byte
  time : Word32
  deriving DecidableEq, Repr

/-- One constructor per row of spec/opcode_table.json. The first seven are the commands of the host
command port (30_encoding.md R70, R71; the `len` operand of SEND and REQRESP is the length of the
payload). The last five are the wire formats of the transport's side (30_encoding.md R60, R66 to R68). -/
inductive Instr
  /-- PARITY value, mode (40_parity.md R91). -/
  | parity (value : Byte) (mode : ParityMode)
  /-- START flags, bitrate, target, source (41_session.md R100 to R110). -/
  | start (flags : Byte) (bitrate : Word32) (target source : Byte)
  /-- STOP (41_session.md R111 to R113). -/
  | stop
  /-- IDLE (41_session.md R114). -/
  | idle
  /-- SEND dest, src, payload (42_framer.md R120 to R123). -/
  | send (dest src : Byte) (payload : List Byte)
  /-- RECV timeout (42_framer.md R124 to R129). -/
  | recv (timeout : Timeout)
  /-- REQRESP timeout, dest, src, payload (43_reqresp.md R140, R141). -/
  | reqresp (timeout : Timeout) (dest src : Byte) (payload : List Byte)
  /-- FRAME: a frame on the line, checksum byte included (30_encoding.md R60). `len` is the byte at
  offset 0, any value on receive (30_encoding.md R79; assumption log 7). -/
  | frame (len da sa : Byte) (payload : List Byte) (ck : Byte)
  /-- FRAME.STOPSESSION: the frame `[0x82, DA, SA, 0xA0, ck]` on the line (30_encoding.md R66). -/
  | frameStopsession (da sa ck : Byte)
  /-- FRAME.KEEPALIVE: the frame `[0x82, DA, SA, 0xA1, ck]` on the line (30_encoding.md R66). -/
  | frameKeepalive (da sa ck : Byte)
  /-- INIT.ADDRESS: the 5-baud address byte `paaaaaaa`, `p` the odd parity of the seven `a` bits
  (30_encoding.md R67). -/
  | initAddress (a : BitVec 7)
  /-- INIT.KEYBYTES: the pair 0xD3, 0xB0 as the result of `T.initBus` (30_encoding.md R68). -/
  | initKeybytes
  deriving DecidableEq, Repr

/-- What the world outside can do to the block's ports (20_memory.md R40; assumption log 5). -/
inductive PortInput
  /-- A command packet on the host command port (20_memory.md R41). -/
  | packet (bytes : List Byte)
  /-- Bytes of one read that arrive from the line and wait in the transport (10_state.md R33). -/
  | line (rx : RxImage)
  /-- A byte sent at 5 baud passes on the line (30_encoding.md R67). -/
  | address (b : Byte)
  /-- The transport's next answer to `T.initBus` is settled (20_memory.md R42). -/
  | initAnswer (r : InitAnswer)
  /-- The transport's next answer to `T.send` is settled (20_memory.md R42). -/
  | sendAnswer (r : SendAnswer)
  /-- The transport will answer a `T.receive` with `err(e)` (20_memory.md R42). -/
  | receiveError (e : TErr)
  /-- The capability levels change (10_state.md R32). -/
  | capabilities (fullInit cksum : Bool)
  /-- Reset while no command runs (70_reset_and_hazards.md R180). -/
  | reset
  /-- A command packet during which reset strikes after that many of the command's events
  (70_reset_and_hazards.md R181; assumption log 15). -/
  | resetDuring (bytes : List Byte) (events : Nat)
  deriving DecidableEq, Repr

end Sys2Proof
end

