-- ==== Sys2Proof/Config.lean ====
section
/-! DEFINITION. What the spec leaves open, as constants without a value: the OPEN parameters of
00_scope.md R4 (92_eei_decisions.md D23) and the free values (assumption log 1, 2, 14, 16). -/

namespace Sys2Proof

/-- `P_MSG_GAP_MS`: the minimum delay before each frame is handed to the transport (10_state.md R32). -/
opaque Config.msgGapMs : Word32

/-- `P_BYTE_GAP_MS`: given to `T.send` as `minInterByteDelayMs` (10_state.md R32). -/
opaque Config.byteGapMs : Word32

/-- `P_TESTER_ADDR`: the conventional tester address, compared with `source` for a warning only
(10_state.md R32, 41_session.md R103). -/
opaque Config.testerAddr : Byte

/-- Free value: what the transport answers to `T.initBus` (20_memory.md R42). -/
opaque Config.freeInitAnswer : Nat → InitAnswer

/-- Free value: what the transport answers to `T.send` (20_memory.md R42). -/
opaque Config.freeSendAnswer : Nat → SendAnswer

/-- Free value: what the transport answers to `T.receive` (20_memory.md R42). -/
opaque Config.freeRecvAnswer : Nat → RecvAnswer

/-- Free value: milliseconds that pass beyond the specified minimum (20_memory.md R52). -/
opaque Config.freeDelay : Nat → Nat

/-- Free value: what SESS.KB1 and SESS.KB2 hold between the creation of the session and the answer of
`T.initBus`, when START writes them (10_state.md R20, 41_session.md R108). -/
opaque Config.unwrittenKeyByte : Nat → Byte

end Sys2Proof
end

