-- ==== Sys2Proof/Machine/Literals.lean ====
section
/-! DEFINITION. The fixed parameters of 00_scope.md R4, each under the name the spec gives it. -/

namespace Sys2Proof.Machine

/-- `L_MIN`, the least payload length. -/
def lMin : Nat := 1
/-- `L_MAX`, the greatest payload length. -/
def lMax : Nat := 14
/-- `HDR`, the header bytes before the payload. -/
def hdr : Nat := 3
/-- `OVH`, the bytes of a received frame that are not payload. -/
def ovh : Nat := 4
/-- `RXBUF`, the buffer size passed to `T.receive`. -/
def rxBuf : Nat := 18
/-- `LEN_BASE`, the constant added into the length byte. -/
def lenBase : Nat := 0x80
/-- `KB1_EXP`, the expected first key byte. -/
def kb1Exp : Byte := 0xD3
/-- `KB2_EXP`, the expected second key byte. -/
def kb2Exp : Byte := 0xB0
/-- `CTL_STOP`, the payload of the stop-session message. -/
def ctlStop : Byte := 0xA0
/-- `CTL_KEEPALIVE`, the payload of the keepalive message. -/
def ctlKeepalive : Byte := 0xA1
/-- `BITRATE_DEFAULT`, used when the request gives 0. -/
def bitrateDefault : Word32 := 10400
/-- `T_SETTLE_MS`, the settle delay after the flush, before the bus initialisation. -/
def tSettleMs : Nat := 300
/-- `T_CTL_MS`, the timeout of the stop and keepalive exchanges. -/
def tCtlMs : Nat := 1000
/-- `T_STOP_FALLBACK_MS`, the wait after an unanswered stop. -/
def tStopFallbackMs : Nat := 5000
/-- `T_RX_SLACK_MS`, added to every receive timeout. -/
def tRxSlackMs : Nat := 100
/-- `DATA_BITS` of the serial line format. -/
def dataBits : Nat := 8
/-- `STOP_BITS` of the serial line format. -/
def stopBits : Nat := 1

end Sys2Proof.Machine
end

