-- ==== Sys2Proof/Machine/Operands.lean ====
section
/-! DEFINITION. How operands and fields are formed: the parity bit, the length byte, the address
fallback, the bitrate default, the init type, the byte order of the ports, and cutting bytes out of a
number. -/

namespace Sys2Proof.Machine

/-- The seed of the parity fold: 1 for ODD, 0 for EVEN (40_parity.md R90). -/
def paritySeed : ParityMode → Bool
  | .even => false
  | .odd => true

/-- The parity bit over bits 6 to 0; bit 7 takes no part (40_parity.md R90). -/
def parityBit (v : Byte) (m : ParityMode) : Bool :=
  paritySeed m ^^ v[6] ^^ v[5] ^^ v[4] ^^ v[3] ^^ v[2] ^^ v[1] ^^ v[0]

/-- `Parity(v, m)`: the parity bit in bit 7, the low seven bits untouched (40_parity.md R90). -/
def parityByte (v : Byte) (m : ParityMode) : Byte :=
  BitVec.ofBool (parityBit v m) ++ v.extractLsb' 0 7

/-- The length byte `LEN = 0x80 + L + 1` (30_encoding.md R61). -/
def lenByte (L : Nat) : Byte := BitVec.ofNat 8 (lenBase + L + 1)

/-- The address fallback: an explicit address, or the session's when it is 0 (30_encoding.md R62). -/
def pickAddress (explicit fallback : Byte) : Byte :=
  if explicit = 0 then fallback else explicit

/-- The bitrate of the session: 10400 when the operand is 0 (41_session.md R104). -/
def effectiveBitrate (b : Word32) : Word32 :=
  if b = 0 then bitrateDefault else b

/-- `INIT_TYPE = flags[1:0]`; `flags[7:2]` is ignored (30_encoding.md R72). -/
def initType (flags : Byte) : BitVec 2 := flags.extractLsb' 0 2

/-- The payload length check `1 <= L <= 14` (42_framer.md R121). -/
def legalLength (L : Nat) : Bool := decide (lMin ≤ L) && decide (L ≤ lMax)

/-- The TX image: header and payload, no checksum byte (42_framer.md R120, 30_encoding.md R65). -/
def txImage (da sa : Byte) (payload : List Byte) : List Byte :=
  [lenByte payload.length, da, sa] ++ payload

/-- `DecodeFrame` of an RX image of 5 to 18 bytes, without the timestamp: destination, source and
everything after the header but the last byte (42_framer.md R124). -/
def decodeFrame (rx : List Byte) : Byte × Byte × List Byte :=
  (rx.getD 1 0, rx.getD 2 0, (rx.drop hdr).dropLast)

/-- Four bytes, most significant first (20_memory.md R45). -/
def be32 (v : Word32) : List Byte :=
  [v.extractLsb' 24 8, v.extractLsb' 16 8, v.extractLsb' 8 8, v.extractLsb' 0 8]

/-- Two bytes, most significant first (20_memory.md R45). -/
def be16 (v : Timeout) : List Byte := [v.extractLsb' 8 8, v.extractLsb' 0 8]

/-- A 32-bit operand from its bytes, most significant first (20_memory.md R45). -/
def fromBe32 (b3 b2 b1 b0 : Byte) : Word32 := b3 ++ b2 ++ b1 ++ b0

/-- A 16-bit operand from its bytes, most significant first (20_memory.md R45). -/
def fromBe16 (b1 b0 : Byte) : Timeout := b1 ++ b0

/-- At most the first 18 bytes, as one read (20_memory.md R42). -/
def rxImageOf (bytes : List Byte) : RxImage where
  bytes := bytes.take 18
  fits := by simp only [List.length_take]; omega

/-- The first `n` bytes of a number whose bit 0 is the least significant bit of the first byte. -/
def bytesOfNat : Nat → Nat → List Byte
  | 0, _ => []
  | n + 1, w => BitVec.ofNat 8 w :: bytesOfNat n (w / 256)

end Sys2Proof.Machine
end

