-- ==== Sys2Proof/WellFormed.lean ====
section
/-! DEFINITION. Which terms of `Instr` stand for words: the limits the encodings set on a payload. -/

namespace Sys2Proof

/-- The payload of SEND and REQRESP has at most 255 bytes, since `len` is one byte (30_encoding.md
R71). A frame has 1 to 14 payload bytes (30_encoding.md R60), and a frame that is a stop-session or
keepalive frame byte for byte is that row's (30_encoding.md R66), not FRAME's. -/
def Instr.wellFormed : Instr → Bool
  | .parity _ _ => true
  | .start _ _ _ _ => true
  | .stop => true
  | .idle => true
  | .send _ _ payload => decide (payload.length ≤ 255)
  | .recv _ => true
  | .reqresp _ _ _ payload => decide (payload.length ≤ 255)
  | .frame len _ _ payload _ =>
    decide (1 ≤ payload.length) && decide (payload.length ≤ 14) &&
      !(decide (len = 0x82) && (decide (payload = [0xA0]) || decide (payload = [0xA1])))
  | .frameStopsession _ _ _ => true
  | .frameKeepalive _ _ _ => true
  | .initAddress _ => true
  | .initKeybytes => true

end Sys2Proof
end

