-- ==== Sys2Proof/Decode.lean ====
section
/-! DEFINITION. The decoder, total on any bytes and rejecting by name; the encoder, from the same
tables (30_encoding.md R60 to R73, R77, R78); and the reading of a table word. -/

namespace Sys2Proof

open Sys2Proof.Machine

/-- Why bytes at a port are no instruction. -/
inductive DecodeError
  /-- An empty packet has no opcode (30_encoding.md R77). -/
  | emptyPacket
  /-- Byte 0 is none of the seven opcodes (30_encoding.md R70, R77). -/
  | undefinedOpcode
  /-- The packet is not as long as its opcode and `len` say (30_encoding.md R77, R78). -/
  | wrongLength
  /-- A PARITY `mode` byte of 0x02 to 0xFF (30_encoding.md R73). -/
  | reservedMode
  /-- Bytes from the line that are not 5 to 18 (30_encoding.md R60, R79). -/
  | notAFrame
  /-- A 5-baud byte whose bit 7 is not the odd parity of the rest (30_encoding.md R67). -/
  | notAnAddress
  /-- An answer of `T.initBus` that is not the pair 0xD3, 0xB0 (30_encoding.md R68). -/
  | notTheKeyBytes
  /-- A port input that carries no encoding of the opcode table. -/
  | noEncoding
  deriving DecidableEq, Repr

/-- What decoding answers. -/
inductive Decoded
  | ok (i : Instr)
  | undefined (why : DecodeError)
  deriving DecidableEq, Repr

/-- The opcodes of 30_encoding.md R70. -/
def opPARITY : Byte := 0x01
def opSTART : Byte := 0x10
def opSTOP : Byte := 0x11
def opIDLE : Byte := 0x12
def opSEND : Byte := 0x20
def opRECV : Byte := 0x21
def opREQRESP : Byte := 0x22

/-- The length of the packet that starts with these bytes, found from byte 0 alone, but from byte 3
for SEND and byte 5 for REQRESP (30_encoding.md R78); none for an undefined opcode or too few bytes. -/
def packetLength (bytes : List Byte) : Option Nat :=
  match bytes[0]? with
  | none => none
  | some op =>
    if op = opPARITY then some 3
    else if op = opSTART then some 8
    else if op = opSTOP then some 1
    else if op = opIDLE then some 1
    else if op = opSEND then bytes[3]?.map fun len => 4 + len.toNat
    else if op = opRECV then some 3
    else if op = opREQRESP then bytes[5]?.map fun len => 6 + len.toNat
    else none

/-- The `mode` byte: 0x00 EVEN, 0x01 ODD, the rest reserved (30_encoding.md R73). -/
def parityModeOf (m : Byte) : Option ParityMode :=
  if m = 0x00 then some .even else if m = 0x01 then some .odd else none

/-- PARITY after its opcode (30_encoding.md R71). -/
def decodeParity : List Byte → Decoded
  | [value, mode] =>
    match parityModeOf mode with
    | some m => .ok (.parity value m)
    | none => .undefined .reservedMode
  | _ => .undefined .wrongLength

/-- START after its opcode (30_encoding.md R71). -/
def decodeStart : List Byte → Decoded
  | [flags, b3, b2, b1, b0, target, source] => .ok (.start flags (fromBe32 b3 b2 b1 b0) target source)
  | _ => .undefined .wrongLength

/-- STOP after its opcode (30_encoding.md R71). -/
def decodeStop : List Byte → Decoded
  | [] => .ok .stop
  | _ => .undefined .wrongLength

/-- IDLE after its opcode (30_encoding.md R71). -/
def decodeIdle : List Byte → Decoded
  | [] => .ok .idle
  | _ => .undefined .wrongLength

/-- SEND after its opcode; `len` payload bytes follow whatever `len` is (30_encoding.md R71). -/
def decodeSend : List Byte → Decoded
  | dest :: src :: len :: payload =>
    if payload.length = len.toNat then .ok (.send dest src payload) else .undefined .wrongLength
  | _ => .undefined .wrongLength

/-- RECV after its opcode (30_encoding.md R71). -/
def decodeRecv : List Byte → Decoded
  | [t1, t0] => .ok (.recv (fromBe16 t1 t0))
  | _ => .undefined .wrongLength

/-- REQRESP after its opcode (30_encoding.md R71). -/
def decodeReqresp : List Byte → Decoded
  | t1 :: t0 :: dest :: src :: len :: payload =>
    if payload.length = len.toNat then .ok (.reqresp (fromBe16 t1 t0) dest src payload)
    else .undefined .wrongLength
  | _ => .undefined .wrongLength

/-- A command packet (30_encoding.md R69 to R73, R77). -/
def decodePacket : List Byte → Decoded
  | [] => .undefined .emptyPacket
  | op :: operands =>
    if op = opPARITY then decodeParity operands
    else if op = opSTART then decodeStart operands
    else if op = opSTOP then decodeStop operands
    else if op = opIDLE then decodeIdle operands
    else if op = opSEND then decodeSend operands
    else if op = opRECV then decodeRecv operands
    else if op = opREQRESP then decodeReqresp operands
    else .undefined .undefinedOpcode

/-- A frame's fields as the row they belong to (30_encoding.md R60, R66). -/
def classifyFrame (len da sa : Byte) (payload : List Byte) (ck : Byte) : Instr :=
  if len = lenByte 1 ∧ payload = [ctlStop] then .frameStopsession da sa ck
  else if len = lenByte 1 ∧ payload = [ctlKeepalive] then .frameKeepalive da sa ck
  else .frame len da sa payload ck

/-- Bytes of one read from the line: a frame when they are 5 to 18, whatever byte 0 is (30_encoding.md
R60, R79). -/
def decodeLine : List Byte → Decoded
  | len :: da :: sa :: body =>
    if 2 ≤ body.length ∧ body.length ≤ 15 then
      .ok (classifyFrame len da sa body.dropLast (body.getLastD 0))
    else .undefined .notAFrame
  | _ => .undefined .notAFrame

/-- A byte sent at 5 baud: `paaaaaaa` with odd parity (30_encoding.md R67). -/
def decodeAddress (b : Byte) : Decoded :=
  if parityByte b .odd = b then .ok (.initAddress (b.extractLsb' 0 7)) else .undefined .notAnAddress

/-- An answer of `T.initBus`: INIT.KEYBYTES when it is the expected pair (30_encoding.md R68). -/
def decodeInitAnswer : InitAnswer → Decoded
  | .ok kb1 kb2 =>
    if kb1 = kb1Exp ∧ kb2 = kb2Exp then .ok .initKeybytes else .undefined .notTheKeyBytes
  | .err _ => .undefined .notTheKeyBytes

/-- The instruction a port input carries. Which table applies is known from the port. -/
def decode : PortInput → Decoded
  | .packet bytes => decodePacket bytes
  | .line rx => decodeLine rx.bytes
  | .address b => decodeAddress b
  | .initAnswer r => decodeInitAnswer r
  | .sendAnswer _ => .undefined .noEncoding
  | .receiveError _ => .undefined .noEncoding
  | .capabilities _ _ => .undefined .noEncoding
  | .reset => .undefined .noEncoding
  | .resetDuring _ _ => .undefined .noEncoding

/-! The encoder. -/

/-- The `mode` byte of a parity mode (30_encoding.md R73). -/
def modeByte : ParityMode → Byte
  | .even => 0x00
  | .odd => 0x01

/-- The bytes of an instruction (30_encoding.md R60, R66 to R73). -/
def encode : Instr → List Byte
  | .parity value mode => [opPARITY, value, modeByte mode]
  | .start flags bitrate target source => [opSTART, flags] ++ be32 bitrate ++ [target, source]
  | .stop => [opSTOP]
  | .idle => [opIDLE]
  | .send dest src payload => [opSEND, dest, src, BitVec.ofNat 8 payload.length] ++ payload
  | .recv timeout => [opRECV] ++ be16 timeout
  | .reqresp timeout dest src payload =>
    [opREQRESP] ++ be16 timeout ++ [dest, src, BitVec.ofNat 8 payload.length] ++ payload
  | .frame len da sa payload ck => [len, da, sa] ++ payload ++ [ck]
  | .frameStopsession da sa ck => [lenByte 1, da, sa, ctlStop, ck]
  | .frameKeepalive da sa ck => [lenByte 1, da, sa, ctlKeepalive, ck]
  | .initAddress a => [parityByte (a.setWidth 8) .odd]
  | .initKeybytes => [kb1Exp, kb2Exp]

/-- The encoded instruction at the port where it is read. -/
def encodeInput (i : Instr) : PortInput :=
  match i with
  | .parity _ _ => .packet (encode i)
  | .start _ _ _ _ => .packet (encode i)
  | .stop => .packet (encode i)
  | .idle => .packet (encode i)
  | .send _ _ _ => .packet (encode i)
  | .recv _ => .packet (encode i)
  | .reqresp _ _ _ _ => .packet (encode i)
  | .frame _ _ _ _ _ => .line (rxImageOf (encode i))
  | .frameStopsession _ _ _ => .line (rxImageOf (encode i))
  | .frameKeepalive _ _ _ => .line (rxImageOf (encode i))
  | .initAddress a => .address (parityByte (a.setWidth 8) .odd)
  | .initKeybytes => .initAnswer (.ok kb1Exp kb2Exp)

/-! Table words. -/

/-- How many bytes of a table word make a frame: what its length byte says when it is one the
serialiser emits, else the longest frame (30_encoding.md R61, R79; assumption log 17). -/
def frameBytesOf (len : Byte) : Nat :=
  if 0x82 ≤ len.toNat ∧ len.toNat ≤ 0x8F then len.toNat - lenBase + 3 else rxBuf

/-- The port input whose bits are `w`, with zeros above `nbits` (assumption log 17): a command packet
cut to its length when byte 0 is an opcode, else the key byte pair, else a frame, else a 5-baud
address byte, else an undefined packet. -/
def inputOfBits (nbits w : Nat) : PortInput :=
  let v := w % 2 ^ nbits
  match packetLength (bytesOfNat 6 v) with
  | some n => .packet (bytesOfNat n v)
  | none =>
    if nbits = 16 ∧ v = 0xD3B0 then .initAnswer (.ok kb1Exp kb2Exp)
    else if v / 16 % 16 = 8 then
      .line (rxImageOf (bytesOfNat (frameBytesOf (BitVec.ofNat 8 v)) v))
    else if nbits = 8 ∧ parityByte (BitVec.ofNat 8 v) .odd = BitVec.ofNat 8 v then
      .address (BitVec.ofNat 8 v)
    else .packet (bytesOfNat (nbits / 8) v)

/-- The instruction the decoder reads from an instruction whose bits are `w`, numbered as the opcode
table numbers them. -/
def decodeTableWord (nbits w : Nat) : Option Instr :=
  match decode (inputOfBits nbits w) with
  | .ok i => some i
  | .undefined _ => none

end Sys2Proof
end

