-- ==== Sys2Proof/Machine/State.lean ====
section
/-! DEFINITION. The state: the block's own (10_state.md R20 to R27), the ports' and the transport's as
far as the rules touch it (10_state.md R32, R33), and the record of what happened (00_scope.md R9). -/

namespace Sys2Proof.Machine

/-- The FSM state register (10_state.md R21). -/
inductive Fsm
  | idle
  | initializing
  | active
  | stopping
  | closed
  deriving DecidableEq, Repr

/-- The session record: SESS.SRC, SESS.DST, SESS.BITRATE, SESS.KB1, SESS.KB2 (10_state.md R22 to R25). -/
structure Session where
  src : Byte
  dst : Byte
  bitrate : Word32
  kb1 : Byte
  kb2 : Byte
  deriving DecidableEq, Repr

/-- The transport's serial settings, as `T.configure` sets them (10_state.md R33, 20_memory.md R59). -/
structure LineConfig where
  bitrate : Word32
  dataBits : Nat
  stopBits : Nat
  parity : LineParity
  deriving DecidableEq, Repr

/-- The two warnings (10_state.md R31, 92_eei_decisions.md D21). -/
inductive Warning
  | nonConventionalSource
  | stopNotAcknowledged
  deriving DecidableEq, Repr

/-- One event of a trace: a transport transaction with its answer, a wait, a reading of the time base or
a warning (00_scope.md R8, R9). -/
inductive Event
  /-- `T.configure(bitrate, dataBits, stopBits, parity)`. -/
  | configure (bitrate : Word32) (dataBits stopBits : Nat) (parity : LineParity)
  /-- `T.flushInput()`. -/
  | flushInput
  /-- `T.initBus(mode, address)` and its answer. -/
  | initBus (mode : InitMode) (address : Byte) (answer : InitAnswer)
  /-- `T.send(bytes, gap)` and its answer. -/
  | send (bytes : List Byte) (gap : Word32) (answer : SendAnswer)
  /-- `T.receive(size, budget)` and its answer. -/
  | receive (size budget : Nat) (answer : RecvAnswer)
  /-- `Wait(ms)`. -/
  | wait (ms : Nat)
  /-- `Now()` and the value it gave. -/
  | now (time : Word32)
  /-- `Warn(k)`. -/
  | warn (k : Warning)
  deriving DecidableEq, Repr

/-- An event of the history, with the FSM state in which it happened (10_state.md R21 says when
Initializing and Stopping can be seen) and the elapsed milliseconds at its completion. -/
structure TraceEntry where
  fsm : Fsm
  event : Event
  done : Nat
  deriving DecidableEq, Repr

/-- Why the machine stops with a fault. -/
inductive Fault
  /-- Raised by STOP, IDLE, SEND and REQRESP in a state with FSM Active and no session record: they
  would read session registers that hold no value (10_state.md R26, R36). Safe: the model stops, and
  no state between two commands is of that kind. -/
  | sessionAbsent
  deriving DecidableEq, Repr

/-- Why the machine refuses to go on. -/
inductive Refusal
  /-- Raised by an arm of exec that has no meaning yet; no arm is of that kind. Safe. -/
  | notModelled (mnemonic : String)
  deriving DecidableEq, Repr

/-- The state. INVENTORY.md lists each field with the rule that names it and its reset value. -/
structure State where
  /-- FSM (10_state.md R21). -/
  fsm : Fsm
  /-- The one session record, while there is one (10_state.md R26, R27). -/
  sess : Option Session
  /-- CAP_FULLINIT (10_state.md R32). -/
  capFullInit : Bool
  /-- CAP_CKSUM (10_state.md R32). -/
  capCksum : Bool
  /-- What waits at the ports, the next first (20_memory.md R41; assumption log 5). -/
  inbox : List PortInput
  /-- The transport's serial settings, none before the first `T.configure` (10_state.md R33). -/
  line : Option LineConfig
  /-- What the next `T.receive` transactions answer: input that waits, and failures (10_state.md R33). -/
  rx : List RecvAnswer
  /-- What the next `T.initBus` transactions answer; free values after them (20_memory.md R42). -/
  initAnswers : List InitAnswer
  /-- What the next `T.send` transactions answer; free values after them (20_memory.md R42). -/
  sendAnswers : List SendAnswer
  /-- Elapsed milliseconds; `Now()` shows the low 32 bits (20_memory.md R43). -/
  clock : Nat
  /-- Milliseconds beyond the minimum that the next timed events take; free values after them
  (20_memory.md R52). -/
  delays : List Nat
  /-- The index of the next free value: the model's own counter. -/
  draws : Nat
  /-- Every event so far, the oldest first (20_memory.md R51). -/
  trace : List TraceEntry
  /-- Every response packet so far, the oldest first (20_memory.md R41, 30_encoding.md R74). -/
  responses : List (List Byte)
  deriving DecidableEq, Repr

/-- Right after reset (10_state.md R34, 70_reset_and_hazards.md R180): FSM Idle and no session. The world
outside has no value there; its values are assumption log 4. -/
def State.reset : State where
  fsm := .idle
  sess := none
  capFullInit := true
  capCksum := true
  inbox := []
  line := none
  rx := []
  initAnswers := []
  sendAnswers := []
  clock := 0
  delays := []
  draws := 0
  trace := []
  responses := []

end Sys2Proof.Machine
end

