-- ==== Sys2Proof/Machine/Flags.lean ====
section
/-! DEFINITION. The block has no flags (10_state.md R31): the outcome of a command is its status code.
The error kinds, their codes and the response packets (30_encoding.md R74, R75; 60_exceptions.md R150),
and the code of an FSM state (10_state.md R21). -/

namespace Sys2Proof.Machine

/-- The closed list of error kinds (60_exceptions.md R150). -/
inductive CmdError
  | badLength
  | outOfMemory
  | protocolNotSupported
  | initNotSupported
  | wrongKeyBytes
  | transportError (e : TErr)
  | badState
  | badCommand
  deriving DecidableEq, Repr

/-- The status code OK (30_encoding.md R75). -/
def statusOk : Byte := 0x00

/-- The status code of an error kind (30_encoding.md R75). -/
def statusCode : CmdError → Byte
  | .badLength => 0x01
  | .outOfMemory => 0x02
  | .protocolNotSupported => 0x03
  | .initNotSupported => 0x04
  | .wrongKeyBytes => 0x05
  | .transportError _ => 0x06
  | .badState => 0x0E
  | .badCommand => 0x0F

/-- What follows the status byte of an error: `e` for TransportError, nothing else (30_encoding.md R74). -/
def errorDetail : CmdError → List Byte
  | .transportError e => [e.code]
  | .badLength => []
  | .outOfMemory => []
  | .protocolNotSupported => []
  | .initNotSupported => []
  | .wrongKeyBytes => []
  | .badState => []
  | .badCommand => []

/-- The response packet of an error (30_encoding.md R74). -/
def errorPacket (k : CmdError) : List Byte := statusCode k :: errorDetail k

/-- The response of STOP, IDLE and SEND with status OK (30_encoding.md R74). -/
def okPacket : List Byte := [statusOk]

/-- The response of PARITY (30_encoding.md R74). -/
def parityPacket (result : Byte) : List Byte := [statusOk, result]

/-- The response of START with status OK: the session's five values (30_encoding.md R74). -/
def sessionPacket (ss : Session) : List Byte :=
  [statusOk, ss.src, ss.dst] ++ be32 ss.bitrate ++ [ss.kb1, ss.kb2]

/-- The response of RECV and REQRESP with status OK (30_encoding.md R74). -/
def messagePacket (m : InMessage) : List Byte :=
  [statusOk, m.dest, m.src, BitVec.ofNat 8 m.payload.length] ++ m.payload ++ be32 m.time

/-- The binary encoding of an FSM state (10_state.md R21). -/
def fsmCode : Fsm → BitVec 3
  | .idle => 0
  | .initializing => 1
  | .active => 2
  | .stopping => 3
  | .closed => 4

end Sys2Proof.Machine
end

