-- ==== Sys2Proof/Machine/Ops.lean ====
section
/-! DEFINITION. The named operations over State: what an event does to the world, the answers the
transport gives, the passing of time, the session registers, and the end of a command. `State.raise` is
the one operation that raises an error (60_exceptions.md R154); there is no return from one (R155). -/

namespace Sys2Proof.Machine

/-! The answers of the world outside (20_memory.md R42, R52): the next one that is settled, else a free
value (assumption log 1, 2). -/

/-- What `T.initBus` answers if it is the next event. -/
def State.initAnswer (s : State) : InitAnswer :=
  s.initAnswers.headD (Config.freeInitAnswer s.draws)

/-- What `T.send` answers if it is the next event. -/
def State.sendAnswer (s : State) : SendAnswer :=
  s.sendAnswers.headD (Config.freeSendAnswer s.draws)

/-- What `T.receive` answers if it is the next event: the input that waits, in the order it came
(10_state.md R33, 70_reset_and_hazards.md R186). -/
def State.recvAnswer (s : State) : RecvAnswer :=
  s.rx.headD (Config.freeRecvAnswer s.draws)

/-- How many milliseconds beyond the minimum the next timed event takes. -/
def State.nextDelay (s : State) : Nat :=
  s.delays.headD (Config.freeDelay s.draws)

/-- `Now()`: the low 32 bits of the elapsed milliseconds (20_memory.md R43). -/
def State.timeNow (s : State) : Word32 := BitVec.ofNat 32 s.clock

/-! What one event does. -/

/-- Transactions and waits take time; reading the time base and warning take none (00_scope.md R8). -/
def Event.takesTime : Event → Bool
  | .configure _ _ _ _ => true
  | .flushInput => true
  | .initBus _ _ _ => true
  | .send _ _ _ => true
  | .receive _ _ _ => true
  | .wait _ => true
  | .now _ => false
  | .warn _ => false

/-- How long an event takes when `extra` milliseconds come on top: `Wait(n)` at least `n`, `Wait(0)`
completes at once (20_memory.md R52). -/
def Event.elapsed (e : Event) (extra : Nat) : Nat :=
  match e with
  | .configure _ _ _ _ => extra
  | .flushInput => extra
  | .initBus _ _ _ => extra
  | .send _ _ _ => extra
  | .receive _ _ _ => extra
  | .wait ms => if ms = 0 then 0 else ms + extra
  | .now _ => 0
  | .warn _ => 0

/-- A receive answer that is input, not a failure (10_state.md R33). -/
def isInput : RecvAnswer → Bool
  | .ok _ => true
  | .err _ => false

/-- The pending input after an event: `T.receive` consumes what it returns, `T.flushInput` discards all
input (20_memory.md R48, R54; assumption log 10). -/
def Event.rxAfter (e : Event) (rx : List RecvAnswer) : List RecvAnswer :=
  match e with
  | .receive _ _ _ => rx.tail
  | .flushInput => rx.filter fun a => !isInput a
  | .configure _ _ _ _ => rx
  | .initBus _ _ _ => rx
  | .send _ _ _ => rx
  | .wait _ => rx
  | .now _ => rx
  | .warn _ => rx

/-- The settled answers to `T.initBus` after an event. -/
def Event.initAnswersAfter (e : Event) (answers : List InitAnswer) : List InitAnswer :=
  match e with
  | .initBus _ _ _ => answers.tail
  | .configure _ _ _ _ => answers
  | .flushInput => answers
  | .send _ _ _ => answers
  | .receive _ _ _ => answers
  | .wait _ => answers
  | .now _ => answers
  | .warn _ => answers

/-- The settled answers to `T.send` after an event. -/
def Event.sendAnswersAfter (e : Event) (answers : List SendAnswer) : List SendAnswer :=
  match e with
  | .send _ _ _ => answers.tail
  | .configure _ _ _ _ => answers
  | .flushInput => answers
  | .initBus _ _ _ => answers
  | .receive _ _ _ => answers
  | .wait _ => answers
  | .now _ => answers
  | .warn _ => answers

/-- The serial settings after an event (20_memory.md R59). -/
def Event.lineAfter (e : Event) (line : Option LineConfig) : Option LineConfig :=
  match e with
  | .configure bitrate dataBits stopBits parity => some ⟨bitrate, dataBits, stopBits, parity⟩
  | .flushInput => line
  | .initBus _ _ _ => line
  | .send _ _ _ => line
  | .receive _ _ _ => line
  | .wait _ => line
  | .now _ => line
  | .warn _ => line

/-- One event happens while FSM is `f`: its answer is used up, time passes, the transport changes and the
history grows (00_scope.md R9, 20_memory.md R51). -/
def State.performAs (f : Fsm) (e : Event) (s : State) : State :=
  { s with
    line := e.lineAfter s.line
    rx := e.rxAfter s.rx
    initAnswers := e.initAnswersAfter s.initAnswers
    sendAnswers := e.sendAnswersAfter s.sendAnswers
    clock := s.clock + e.elapsed s.nextDelay
    delays := if e.takesTime then s.delays.tail else s.delays
    draws := s.draws + 1
    trace := s.trace ++ [⟨f, e, s.clock + e.elapsed s.nextDelay⟩] }

/-- One event happens now. -/
def State.perform (e : Event) (s : State) : State := s.performAs s.fsm e

/-- The events of the history. -/
def State.events (s : State) : List Event := s.trace.map (·.event)

/-- Time passes while no command runs (20_memory.md R43). -/
def State.passTime (s : State) : State :=
  { s with
    clock := s.clock + s.nextDelay
    delays := s.delays.tail
    draws := s.draws + 1 }

/-- The input at the head of the ports is taken; `rest` is what waits behind it. -/
def State.fetched (rest : List PortInput) (s : State) : State :=
  { s.passTime with inbox := rest }

/-! The block's registers. -/

/-- FSM <- f (00_scope.md R8). -/
def State.setFsm (f : Fsm) (s : State) : State := { s with fsm := f }

/-- The session registers are written (00_scope.md R8). -/
def State.setSession (ss : Session) (s : State) : State := { s with sess := some ss }

/-- The session record is released and FSM becomes Closed (41_session.md R110, R113). -/
def State.release (s : State) : State := { s with fsm := .closed, sess := none }

/-- Reset of the block: FSM Idle, no session, nothing of the outside touched (70_reset_and_hazards.md
R180, R181). -/
def State.resetBlock (s : State) : State := { s with fsm := .idle, sess := none }

/-! The end of a command. -/

/-- The response packet leaves on the host command port (20_memory.md R41). -/
def State.respond (packet : List Byte) (s : State) : State :=
  { s with responses := s.responses ++ [packet] }

/-- `raise K`: the command ends with that status and everything it did stands (60_exceptions.md R154). -/
def State.raise (k : CmdError) (s : State) : State := s.respond (errorPacket k)

/-! What arrives from outside. -/

/-- Bytes of one read arrive from the line and wait (10_state.md R33, 60_exceptions.md R159). -/
def State.arrive (rx : RxImage) (s : State) : State := { s with rx := s.rx ++ [.ok rx] }

/-- The transport settles its next answer to `T.initBus` (20_memory.md R42). -/
def State.settleInit (r : InitAnswer) (s : State) : State :=
  { s with initAnswers := s.initAnswers ++ [r] }

/-- What a port input does that carries no instruction: an undefined packet gets BadCommand
(30_encoding.md R77); bytes from the line wait whatever they are (30_encoding.md R79); a byte at 5 baud is the
transport's alone (41_session.md R107); the rest is the transport's and the environment's. -/
def State.deliver (x : PortInput) (s : State) : State :=
  match x with
  | .packet _ => s.raise .badCommand
  | .line rx => s.arrive rx
  | .address _ => s
  | .initAnswer r => s.settleInit r
  | .sendAnswer r => { s with sendAnswers := s.sendAnswers ++ [r] }
  | .receiveError e => { s with rx := s.rx ++ [.err e] }
  | .capabilities fullInit cksum => { s with capFullInit := fullInit, capCksum := cksum }
  | .reset => s.resetBlock
  | .resetDuring _ _ => s.resetBlock

/-- The events of a history happen again, each in the FSM state it happened in. -/
def State.replay (entries : List TraceEntry) (s : State) : State :=
  entries.foldl (fun s entry => s.performAs entry.fsm entry.event) s

end Sys2Proof.Machine
end

