-- ==== Sys2Proof/Machine/Exchange.lean ====
section
/-! DEFINITION. The internal procedures FramerSend, FramerReceive and ReqResp, which commands share
(00_scope.md R9). None of them checks FSM (92_eei_decisions.md D37). -/

namespace Sys2Proof.Machine

/-- `EncodeFrame`: the TX image, with the session's addresses where the message gives none (42_framer.md
R120, 30_encoding.md R62). -/
def encodeFrame (m : OutMessage) (ss : Session) : List Byte :=
  txImage (pickAddress m.dest ss.dst) (pickAddress m.src ss.src) m.payload

/-- The transmission of a frame: the wait, then the one `T.send` (42_framer.md R122). -/
def transmit (tx : List Byte) (s : State) : Except CmdError Unit × State :=
  let waited := s.perform (.wait Config.msgGapMs.toNat)
  let sent := waited.perform (.send tx Config.byteGapMs waited.sendAnswer)
  match waited.sendAnswer with
  | .ok => (.ok (), sent)
  | .err e => (.error (.transportError e), sent)

/-- `FramerSend`: the length check comes first and causes nothing else (42_framer.md R121 to R123). -/
def framerSend (ss : Session) (m : OutMessage) (s : State) : Except CmdError Unit × State :=
  if legalLength m.payload.length then transmit (encodeFrame m ss) s
  else (.error .badLength, s)

/-- A received RX image becomes a message with its timestamp, or BadLength when it is shorter than 5 bytes
(42_framer.md R124, R126, R128). -/
def acceptFrame (rx : RxImage) (s : State) : Except CmdError InMessage × State :=
  if rx.bytes.length < ovh + lMin then (.error .badLength, s)
  else
    let fields := decodeFrame rx.bytes
    (.ok ⟨fields.1, fields.2.1, fields.2.2, s.timeNow⟩, s.perform (.now s.timeNow))

/-- `FramerReceive`: one `T.receive` of 18 bytes with `tmo + 100` milliseconds (42_framer.md R125). -/
def framerReceive (tmo : Nat) (s : State) : Except CmdError InMessage × State :=
  let received := s.perform (.receive rxBuf (tmo + tRxSlackMs) s.recvAnswer)
  match s.recvAnswer with
  | .err e => (.error (.transportError e), received)
  | .ok rx => acceptFrame rx received

/-- `ReqResp`: a send, then a receive unless the send failed (43_reqresp.md R140). -/
def reqResp (ss : Session) (m : OutMessage) (tmo : Nat) (s : State) : Except CmdError InMessage × State :=
  match framerSend ss m s with
  | (.error k, s1) => (.error k, s1)
  | (.ok _, s1) => framerReceive tmo s1

/-- A control message: one byte of payload, both addresses unset (30_encoding.md R66). -/
def controlMessage (b : Byte) : OutMessage := ⟨[b], 0, 0⟩

/-- The outcome of a command that returns nothing. -/
def finishSend (r : Except CmdError Unit × State) : State :=
  match r with
  | (.ok _, s) => s.respond okPacket
  | (.error k, s) => s.raise k

/-- The outcome of a command that returns a message. -/
def finishMessage (r : Except CmdError InMessage × State) : State :=
  match r with
  | (.ok m, s) => s.respond (messagePacket m)
  | (.error k, s) => s.raise k

end Sys2Proof.Machine
end

