-- ==== Sys2Proof/Machine/Framer.lean ====
section
/-! DEFINITION. The framer family: SEND and RECV (42_framer.md). -/

namespace Sys2Proof.Machine

/-- SEND: the state check, then FramerSend (42_framer.md R123). -/
def execSend (dest src : Byte) (payload : List Byte) (s : State) : Host.Outcome State Fault Refusal :=
  if s.fsm = .active then
    match s.sess with
    | none => .fault .sessionAbsent
    | some ss => .next (finishSend (framerSend ss ⟨payload, dest, src⟩ s))
  else .next (s.raise .badState)

/-- RECV: the state check, then FramerReceive (42_framer.md R125). -/
def execRecv (timeout : Timeout) (s : State) : Host.Outcome State Fault Refusal :=
  if s.fsm = .active then .next (finishMessage (framerReceive timeout.toNat s))
  else .next (s.raise .badState)

end Sys2Proof.Machine
end

