-- ==== Sys2Proof/Machine/Parity.lean ====
section
/-! DEFINITION. The PARITY family (40_parity.md). -/

namespace Sys2Proof.Machine

/-- PARITY: a pure function, legal in every FSM state (40_parity.md R91, 60_exceptions.md R156). -/
def execParity (value : Byte) (mode : ParityMode) (s : State) : Host.Outcome State Fault Refusal :=
  .next (s.respond (parityPacket (parityByte value mode)))

end Sys2Proof.Machine
end

