-- ==== Sys2Proof/Machine/Reqresp.lean ====
section
/-! DEFINITION. The request/response family: REQRESP (43_reqresp.md). -/

namespace Sys2Proof.Machine

/-- REQRESP: the state check, then ReqResp (43_reqresp.md R141). -/
def execReqresp (timeout : Timeout) (dest src : Byte) (payload : List Byte) (s : State) :
    Host.Outcome State Fault Refusal :=
  if s.fsm = .active then
    match s.sess with
    | none => .fault .sessionAbsent
    | some ss => .next (finishMessage (reqResp ss ⟨payload, dest, src⟩ timeout.toNat s))
  else .next (s.raise .badState)

end Sys2Proof.Machine
end

