-- ==== Sys2Proof/Machine/Session.lean ====
section
/-! DEFINITION. The session family: START, STOP, IDLE (41_session.md). -/

namespace Sys2Proof.Machine

/-- The session registers when the record comes into being: the two key byte registers hold a free value
until `T.initBus` has answered (41_session.md R103, R104; assumption log 14). -/
def newSession (bitrate : Word32) (target source : Byte) (draws : Nat) : Session :=
  ⟨source, target, effectiveBitrate bitrate, Config.unwrittenKeyByte draws,
    Config.unwrittenKeyByte (draws + 1)⟩

/-- Session creation, with the warning for an unconventional source (41_session.md R103, R104). -/
def openSession (bitrate : Word32) (target source : Byte) (s : State) : State :=
  let opened := (s.setFsm .initializing).setSession (newSession bitrate target source s.draws)
  if source = Config.testerAddr then opened else opened.perform (.warn .nonConventionalSource)

/-- Line configuration, flush and settle delay (41_session.md R105, R106). -/
def prepareLine (bitrate : Word32) (s : State) : State :=
  ((s.perform (.configure (effectiveBitrate bitrate) dataBits stopBits .none)).perform
    .flushInput).perform (.wait tSettleMs)

/-- The failure path: the session record is released, FSM becomes Closed, then the error is raised
(41_session.md R110). -/
def failHandshake (k : CmdError) (s : State) : State := s.release.raise k

/-- The key bytes are recorded and compared; START ends (41_session.md R108, R109). -/
def checkKeyBytes (bitrate : Word32) (target source kb1 kb2 : Byte) (s : State) : State :=
  let ss : Session := ⟨source, target, effectiveBitrate bitrate, kb1, kb2⟩
  let recorded := s.setSession ss
  if kb1 = kb1Exp ∧ kb2 = kb2Exp then (recorded.setFsm .active).respond (sessionPacket ss)
  else failHandshake .wrongKeyBytes recorded

/-- The handshake after both preconditions have passed (41_session.md R103 to R110). -/
def handshake (bitrate : Word32) (target source : Byte) (s : State) : State :=
  let ready := prepareLine bitrate (openSession bitrate target source s)
  let done := ready.perform (.initBus .slow5Baud (parityByte target .odd) ready.initAnswer)
  match ready.initAnswer with
  | .err e => failHandshake (.transportError e) done
  | .ok kb1 kb2 => checkKeyBytes bitrate target source kb1 kb2 done

/-- START: the state check, the capability check, the init-type check, then the handshake (41_session.md
R100 to R102). -/
def execStart (flags : Byte) (bitrate : Word32) (target source : Byte) (s : State) :
    Host.Outcome State Fault Refusal :=
  if s.fsm = .idle ∨ s.fsm = .closed then
    if s.capFullInit && s.capCksum then
      if initType flags = 0 then .next (handshake bitrate target source s)
      else .next (s.raise .initNotSupported)
    else .next (s.raise .protocolNotSupported)
  else .next (s.raise .badState)

/-- STOP after its exchange: an error becomes a warning and the fallback wait; then release and OK
(41_session.md R112, R113). -/
def finishStop (r : Except CmdError InMessage × State) : State :=
  match r with
  | (.ok _, s) => s.release.respond okPacket
  | (.error _, s) =>
    ((s.perform (.warn .stopNotAcknowledged)).perform (.wait tStopFallbackMs)).release.respond okPacket

/-- STOP (41_session.md R111). -/
def execStop (s : State) : Host.Outcome State Fault Refusal :=
  if s.fsm = .active then
    match s.sess with
    | none => .fault .sessionAbsent
    | some ss =>
      .next (finishStop (reqResp ss (controlMessage ctlStop) tCtlMs (s.setFsm .stopping)))
  else .next (s.raise .badState)

/-- IDLE: the keepalive exchange, its result dropped (41_session.md R114). -/
def execIdle (s : State) : Host.Outcome State Fault Refusal :=
  if s.fsm = .active then
    match s.sess with
    | none => .fault .sessionAbsent
    | some ss => .next ((reqResp ss (controlMessage ctlKeepalive) tCtlMs s).2.respond okPacket)
  else .next (s.raise .badState)

end Sys2Proof.Machine
end

