-- ==== Sys2Proof/Machine/Wire.lean ====
section
/-! DEFINITION. The wire family: the five wire formats of the opcode table as items that pass on the
transport's side of the block (assumption log 6). None of them is a command; none touches FSM or the
session (60_exceptions.md R159). -/

namespace Sys2Proof.Machine

/-- FRAME: the whole frame, checksum byte included, waits in the transport's pending input until a
`T.receive` returns it or a `T.flushInput` drops it (10_state.md R33, 60_exceptions.md R159, 30_encoding.md
R65). -/
def execFrame (len da sa : Byte) (payload : List Byte) (ck : Byte) (s : State) :
    Host.Outcome State Fault Refusal :=
  .next (s.arrive (rxImageOf (encode (.frame len da sa payload ck))))

/-- FRAME.STOPSESSION: on the line it is a frame like any other; no payload byte has a meaning for the
block (30_encoding.md R63, R66). -/
def execFrameStopsession (da sa ck : Byte) (s : State) : Host.Outcome State Fault Refusal :=
  .next (s.arrive (rxImageOf (encode (.frameStopsession da sa ck))))

/-- FRAME.KEEPALIVE: on the line it is a frame like any other (30_encoding.md R63, R66). -/
def execFrameKeepalive (da sa ck : Byte) (s : State) : Host.Outcome State Fault Refusal :=
  .next (s.arrive (rxImageOf (encode (.frameKeepalive da sa ck))))

/-- INIT.ADDRESS: the pulse train is inside the transport and the block sees only the result of its own
`T.initBus` (41_session.md R107), so the byte on the line changes nothing (assumption log 8). -/
def execInitAddress (_a : BitVec 7) (s : State) : Host.Outcome State Fault Refusal :=
  .next s

/-- INIT.KEYBYTES: the pair 0xD3, 0xB0 becomes the transport's answer to a `T.initBus` (30_encoding.md R68,
41_session.md R108). -/
def execInitKeybytes (s : State) : Host.Outcome State Fault Refusal :=
  .next (s.settleInit (.ok kb1Exp kb2Exp))

end Sys2Proof.Machine
end

