-- ==== Sys2Proof/Machine/Dispatch.lean ====
section
/-! DEFINITION. One arm per constructor of Instr, each a direct call of its meaning. -/

namespace Sys2Proof.Machine

def exec (i : Instr) (s : State) : Host.Outcome State Fault Refusal :=
  match i with
  | .parity value mode => Sys2Proof.Machine.execParity value mode s
  | .start flags bitrate target source => Sys2Proof.Machine.execStart flags bitrate target source s
  | .stop => Sys2Proof.Machine.execStop s
  | .idle => Sys2Proof.Machine.execIdle s
  | .send dest src payload => Sys2Proof.Machine.execSend dest src payload s
  | .recv timeout => Sys2Proof.Machine.execRecv timeout s
  | .reqresp timeout dest src payload => Sys2Proof.Machine.execReqresp timeout dest src payload s
  | .frame len da sa payload ck => Sys2Proof.Machine.execFrame len da sa payload ck s
  | .frameStopsession da sa ck => Sys2Proof.Machine.execFrameStopsession da sa ck s
  | .frameKeepalive da sa ck => Sys2Proof.Machine.execFrameKeepalive da sa ck s
  | .initAddress a => Sys2Proof.Machine.execInitAddress a s
  | .initKeybytes => Sys2Proof.Machine.execInitKeybytes s

end Sys2Proof.Machine
end

