-- ==== Sys2Proof/Machine/Input.lean ====
section
/-! DEFINITION. What the head of the ports does: run the instruction it carries, or act on the ports; and
a command that a reset cuts short (70_reset_and_hazards.md R181). -/

namespace Sys2Proof.Machine

/-- Reset strikes after the first `events` events of a command: these stand, the rest never happens, no
response is given and the block is reset (70_reset_and_hazards.md R181; assumption log 15). -/
def abandon (bytes : List Byte) (events : Nat) (s : State) : Host.Outcome State Fault Refusal :=
  match decodePacket bytes with
  | .undefined _ => .next s.resetBlock
  | .ok i =>
    match exec i s with
    | .next t => .next (s.replay ((t.trace.drop s.trace.length).take events)).resetBlock
    | .fault r => .fault r
    | .refused r => .refused r

/-- A port input that carries no instruction. -/
def actOn (x : PortInput) (s : State) : Host.Outcome State Fault Refusal :=
  match x with
  | .resetDuring bytes events => abandon bytes events s
  | .packet bytes => .next (s.deliver (.packet bytes))
  | .line rx => .next (s.deliver (.line rx))
  | .address b => .next (s.deliver (.address b))
  | .initAnswer r => .next (s.deliver (.initAnswer r))
  | .sendAnswer r => .next (s.deliver (.sendAnswer r))
  | .receiveError e => .next (s.deliver (.receiveError e))
  | .capabilities fullInit cksum => .next (s.deliver (.capabilities fullInit cksum))
  | .reset => .next (s.deliver .reset)

/-- The port input is taken. -/
def takeInput (x : PortInput) (s : State) : Host.Outcome State Fault Refusal :=
  match decode x with
  | .ok i => exec i s
  | .undefined _ => actOn x s

/-- The next input of the ports, or waiting when there is none (10_state.md R35, 60_exceptions.md R166). -/
def takeNext (s : State) : Host.Outcome State Fault Refusal :=
  match s.inbox with
  | [] => .next (s.fetched [])
  | x :: rest => takeInput x (s.fetched rest)

/-- The instruction whose bits are `w` is put at the head of the ports. -/
def State.present (nbits w : Nat) (s : State) : State :=
  { s with inbox := inputOfBits nbits w :: s.inbox }

end Sys2Proof.Machine
end

