-- ==== Sys2Proof/Machine/Assembler.lean ====
section
/-! DEFINITION. The pseudo-instructions (30_encoding.md R81) and the assembler's text of a command
(30_encoding.md R80). -/

namespace Sys2Proof.Machine

/-- The three pseudo-instructions (30_encoding.md R81). -/
inductive Pseudo
  | sends (payload : List Byte)
  | reqs (timeout : Timeout) (payload : List Byte)
  | startSlow (target source : Byte)
  deriving DecidableEq, Repr

/-- The expansion of a pseudo-instruction (30_encoding.md R81). -/
def expandPseudo : Pseudo → Instr
  | .sends payload => .send 0 0 payload
  | .reqs timeout payload => .reqresp timeout 0 0 payload
  | .startSlow target source => .start 0 0 target source

/-- Numbers in decimal, separated by commas. -/
def operandText (values : List Nat) : String := String.intercalate ", " (values.map Nat.repr)

/-- A payload as a bracketed list; the `len` operand is not written (30_encoding.md R80). -/
def payloadText (payload : List Byte) : String := "[" ++ operandText (payload.map (·.toNat)) ++ "]"

/-- A command in the assembler's syntax, numbers in decimal; the wire formats have none (30_encoding.md
R80). -/
def assemblyText : Instr → Option String
  | .parity value .even => some ("PARITY " ++ operandText [value.toNat] ++ ", EVEN")
  | .parity value .odd => some ("PARITY " ++ operandText [value.toNat] ++ ", ODD")
  | .start flags bitrate target source =>
    some ("START " ++ operandText [flags.toNat, bitrate.toNat, target.toNat, source.toNat])
  | .stop => some "STOP"
  | .idle => some "IDLE"
  | .send dest src payload =>
    some ("SEND " ++ operandText [dest.toNat, src.toNat] ++ ", " ++ payloadText payload)
  | .recv timeout => some ("RECV " ++ operandText [timeout.toNat])
  | .reqresp timeout dest src payload =>
    some ("REQRESP " ++ operandText [timeout.toNat, dest.toNat, src.toNat] ++ ", " ++ payloadText payload)
  | .frame _ _ _ _ _ => none
  | .frameStopsession _ _ _ => none
  | .frameKeepalive _ _ _ => none
  | .initAddress _ => none
  | .initKeybytes => none

end Sys2Proof.Machine
end

