-- ==== Sys2Proof/Safety.lean ====
section
/-! DEFINITION. What counts as a safe state, in the terms the statements use: the session and FSM
between two commands, the history of events, the time stamps and the responses. -/

namespace Sys2Proof.Machine

/-- Between two commands (10_state.md R21, R25, R26; 41_session.md R104, R105): FSM is Idle, Active or
Closed; there is a session exactly while it is Active; the session's key bytes are the fixed pair, its
bitrate is not 0, and the line is set to that bitrate, 8 data bits, 1 stop bit, no parity. -/
def SessionOk (s : State) : Prop :=
  (s.fsm = .idle ∨ s.fsm = .active ∨ s.fsm = .closed) ∧
  (s.fsm = .active ↔ s.sess.isSome = true) ∧
  ∀ ss, s.sess = some ss →
    ss.kb1 = 0xD3 ∧ ss.kb2 = 0xB0 ∧ ss.bitrate ≠ 0 ∧ s.line = some ⟨ss.bitrate, 8, 1, .none⟩

/-- A frame as the block hands it over: 4 to 17 bytes whose first is `0x80 + L + 1` for a payload of
`L` bytes, `L` the length less the three header bytes (10_state.md R28; 30_encoding.md R61, R65). -/
def SentFrameOk (tx : List Byte) : Prop :=
  4 ≤ tx.length ∧ tx.length ≤ 17 ∧
  tx.head? = some (BitVec.ofNat 8 (0x80 + (tx.length - 3) + 1))

/-- Which events can happen in which FSM state, and with which arguments (41_session.md R103 to R114,
42_framer.md R121 to R128, 43_reqresp.md R146, 30_encoding.md R67). -/
def EventOk (f : Fsm) : Event → Prop
  | .configure bitrate dataBits stopBits _ =>
    f = .initializing ∧ bitrate ≠ 0 ∧ dataBits = 8 ∧ stopBits = 1
  | .flushInput => f = .initializing
  | .initBus _ address _ => f = .initializing ∧ parityByte address .odd = address
  | .send tx gap _ => (f = .active ∨ f = .stopping) ∧ gap = Config.byteGapMs ∧ SentFrameOk tx
  | .receive size budget _ =>
    (f = .active ∨ f = .stopping) ∧ size = 18 ∧ 100 ≤ budget ∧ budget ≤ 65635 ∧
      (f = .stopping → budget = 1100)
  | .wait ms =>
    (f = .initializing ∧ ms = 300) ∨ (f = .active ∧ ms = Config.msgGapMs.toNat) ∨
      (f = .stopping ∧ (ms = Config.msgGapMs.toNat ∨ ms = 5000))
  | .now _ => f = .active ∨ f = .stopping
  | .warn .nonConventionalSource => f = .initializing
  | .warn .stopNotAcknowledged => f = .stopping

/-- Every event of the history is one the rules allow. -/
def TraceOk (s : State) : Prop := ∀ entry ∈ s.trace, EventOk entry.fsm entry.event

/-- The milliseconds an event waits at least. -/
def waitOf : Event → Nat
  | .wait ms => ms
  | .configure _ _ _ _ => 0
  | .flushInput => 0
  | .initBus _ _ _ => 0
  | .send _ _ _ => 0
  | .receive _ _ _ => 0
  | .now _ => 0
  | .warn _ => 0

/-- The history is in the order of time, a wait is completed no sooner than its milliseconds after every
event before it, nothing in it is later than now, and every reading of the time base gave the low 32 bits
of the elapsed milliseconds (20_memory.md R43, R51, R52). -/
def TimeOk (s : State) : Prop :=
  s.trace.Pairwise (fun a b => a.done + waitOf b.event ≤ b.done) ∧
  (∀ entry ∈ s.trace, entry.done ≤ s.clock) ∧
  ∀ entry ∈ s.trace, ∀ t, entry.event = .now t → t = BitVec.ofNat 32 entry.done

/-- The response of START with status OK: 9 bytes, the session's five values, the bitrate most significant
byte first and not 0, the key bytes the fixed pair (30_encoding.md R74, 41_session.md R104, R109). -/
def SessionAnswer (source target : Byte) (bitrate : Word32) (p : List Byte) : Prop :=
  bitrate ≠ 0 ∧ p = [0x00, source, target] ++ be32 bitrate ++ [0xD3, 0xB0]

/-- The response of RECV and REQRESP with status OK: 8 + L bytes, byte 3 is L, 1 <= L <= 14
(30_encoding.md R74, 10_state.md R28). -/
def MessageAnswer (p : List Byte) : Prop :=
  ∃ (dest src : Byte) (payload : List Byte) (time : Word32),
    1 ≤ payload.length ∧ payload.length ≤ 14 ∧
    p = [0x00, dest, src, BitVec.ofNat 8 payload.length] ++ payload ++ be32 time

/-- TransportError with the transport's code, one byte that is not 0 (30_encoding.md R74). -/
def TransportErrorAnswer (p : List Byte) : Prop := ∃ e : Byte, e ≠ 0 ∧ p = [0x06, e]

/-- A response packet of 30_encoding.md R74 and R75: status OK in one of the four shapes, TransportError, or
another error status alone; OutOfMemory (0x02) and the codes 0x07 to 0x0D and 0x10 to 0xFF never
(60_exceptions.md R153). -/
def PacketOk (p : List Byte) : Prop :=
  p = [0x00] ∨ (∃ result, p = [0x00, result]) ∨
    (∃ source target bitrate, SessionAnswer source target bitrate p) ∨ MessageAnswer p ∨
    TransportErrorAnswer p ∨
    p ∈ ([[0x01], [0x03], [0x04], [0x05], [0x0E], [0x0F]] : List (List Byte))

/-- Every response packet so far is one the rules allow. -/
def ResponsesOk (s : State) : Prop := ∀ p ∈ s.responses, PacketOk p

/-! Relations between a state and the state after. -/

/-- FSM and the session registers are unchanged. -/
def SameBlock (s t : State) : Prop := t.fsm = s.fsm ∧ t.sess = s.sess

/-- The capability inputs and what waits at the ports are unchanged. -/
def SamePorts (s t : State) : Prop :=
  t.capFullInit = s.capFullInit ∧ t.capCksum = s.capCksum ∧ t.inbox = s.inbox

/-- The transport's settings, pending input and settled answers are unchanged. -/
def SameTransport (s t : State) : Prop :=
  t.line = s.line ∧ t.rx = s.rx ∧ t.initAnswers = s.initAnswers ∧ t.sendAnswers = s.sendAnswers

/-- Exactly the events `es` happen between `s` and `t`, all of them while FSM is `f`. -/
def Happened (f : Fsm) (es : List Event) (s t : State) : Prop :=
  ∃ new : List TraceEntry, t.trace = s.trace ++ new ∧ new.map (·.event) = es ∧
    ∀ entry ∈ new, entry.fsm = f

/-- What a receive gives the host, after the events `before` (42_framer.md R124 to R128): a transport error is
passed on, fewer than 5 bytes are BadLength, and a frame is returned as destination, source, payload
length, payload and the time of completion, without its first and last byte. -/
def ReceiveOutcome (before : List Event) (budget : Nat) (q : RecvAnswer) (s t : State) : Prop :=
  match q with
  | .err e =>
    Happened .active (before ++ [.receive 18 budget q]) s t ∧
      t.responses = s.responses ++ [[0x06, e.code]]
  | .ok rx =>
    (rx.bytes.length < 5 → Happened .active (before ++ [.receive 18 budget q]) s t ∧
      t.responses = s.responses ++ [[0x01]]) ∧
    (5 ≤ rx.bytes.length → ∃ len dest src payload ck, rx.bytes = [len, dest, src] ++ payload ++ [ck] ∧
      Happened .active (before ++ [.receive 18 budget q, .now (BitVec.ofNat 32 t.clock)]) s t ∧
      t.responses = s.responses ++
        [[0x00, dest, src, BitVec.ofNat 8 payload.length] ++ payload ++
          be32 (BitVec.ofNat 32 t.clock)])

/-- The TX image of a message with those operands in that session: length byte, destination, source,
payload; an address of 0 is replaced by the session's (30_encoding.md R60 to R62, R65). -/
def frameOf (ss : Session) (dest src : Byte) (payload : List Byte) : List Byte :=
  [BitVec.ofNat 8 (0x80 + payload.length + 1), if dest = 0 then ss.dst else dest,
    if src = 0 then ss.src else src] ++ payload

/-- The wait before a frame and its `T.send` (42_framer.md R122). -/
def sendingOf (tx : List Byte) (r : SendAnswer) : List Event :=
  [.wait Config.msgGapMs.toNat, .send tx Config.byteGapMs r]

/-- START's events (41_session.md R103 to R107). -/
def startingOf (bitrate : Word32) (target source : Byte) (r : InitAnswer) : List Event :=
  (if source = Config.testerAddr then [] else [.warn .nonConventionalSource]) ++
    [.configure (if bitrate = 0 then 10400 else bitrate) 8 1 .none, .flushInput, .wait 300,
      .initBus .slow5Baud (parityByte target .odd) r]

/-- A defined command packet: an opcode of the seven, the length its layout gives, a PARITY `mode` that is
not reserved (30_encoding.md R70, R71, R73, R77). -/
def FitsLayout (bytes : List Byte) : Prop :=
  ∃ op, bytes.head? = some op ∧
    ((op = 0x01 ∧ bytes.length = 3 ∧ (bytes[2]? = some 0x00 ∨ bytes[2]? = some 0x01)) ∨
     (op = 0x10 ∧ bytes.length = 8) ∨
     (op = 0x11 ∧ bytes.length = 1) ∨
     (op = 0x12 ∧ bytes.length = 1) ∨
     (op = 0x20 ∧ ∃ len, bytes[3]? = some len ∧ bytes.length = 4 + len.toNat) ∨
     (op = 0x21 ∧ bytes.length = 3) ∨
     (op = 0x22 ∧ ∃ len, bytes[5]? = some len ∧ bytes.length = 6 + len.toNat))

/-- The seven commands of the host command port (30_encoding.md R70), as opposed to the wire formats. -/
def isCommand : Instr → Bool
  | .parity _ _ => true
  | .start _ _ _ _ => true
  | .stop => true
  | .idle => true
  | .send _ _ _ => true
  | .recv _ => true
  | .reqresp _ _ _ _ => true
  | .frame _ _ _ _ _ => false
  | .frameStopsession _ _ _ => false
  | .frameKeepalive _ _ _ => false
  | .initAddress _ => false
  | .initKeybytes => false

/-- The response of each command with status OK (30_encoding.md R74). -/
def OkAnswer (i : Instr) (p : List Byte) : Prop :=
  match i with
  | .parity value mode => p = [0x00, parityByte value mode]
  | .start _ bitrate target source =>
    SessionAnswer source target (if bitrate = 0 then 10400 else bitrate) p
  | .stop => p = [0x00]
  | .idle => p = [0x00]
  | .send _ _ _ => p = [0x00]
  | .recv _ => MessageAnswer p
  | .reqresp _ _ _ _ => MessageAnswer p
  | .frame _ _ _ _ _ => False
  | .frameStopsession _ _ _ => False
  | .frameKeepalive _ _ _ => False
  | .initAddress _ => False
  | .initKeybytes => False

/-- The errors each command raises (the table of 60_exceptions.md R150), as response packets. -/
def ErrorAnswer (i : Instr) (p : List Byte) : Prop :=
  match i with
  | .parity _ _ => False
  | .start _ _ _ _ =>
    p ∈ ([[0x03], [0x04], [0x05], [0x0E]] : List (List Byte)) ∨ TransportErrorAnswer p
  | .stop => p = [0x0E]
  | .idle => p = [0x0E]
  | .send _ _ _ => p ∈ ([[0x01], [0x0E]] : List (List Byte)) ∨ TransportErrorAnswer p
  | .recv _ => p ∈ ([[0x01], [0x0E]] : List (List Byte)) ∨ TransportErrorAnswer p
  | .reqresp _ _ _ _ => p ∈ ([[0x01], [0x0E]] : List (List Byte)) ∨ TransportErrorAnswer p
  | .frame _ _ _ _ _ => False
  | .frameStopsession _ _ _ => False
  | .frameKeepalive _ _ _ => False
  | .initAddress _ => False
  | .initKeybytes => False

/-- START, the one command whose errors can move FSM (60_exceptions.md R154). -/
def isStart : Instr → Bool
  | .start _ _ _ _ => true
  | .parity _ _ => false
  | .stop => false
  | .idle => false
  | .send _ _ _ => false
  | .recv _ => false
  | .reqresp _ _ _ _ => false
  | .frame _ _ _ _ _ => false
  | .frameStopsession _ _ _ => false
  | .frameKeepalive _ _ _ => false
  | .initAddress _ => false
  | .initKeybytes => false

/-- The commands that read the session's addresses (10_state.md R20: SEND, REQRESP, STOP, IDLE). -/
def readsSession : Instr → Bool
  | .stop => true
  | .idle => true
  | .send _ _ _ => true
  | .reqresp _ _ _ _ => true
  | .parity _ _ => false
  | .start _ _ _ _ => false
  | .recv _ => false
  | .frame _ _ _ _ _ => false
  | .frameStopsession _ _ _ => false
  | .frameKeepalive _ _ _ => false
  | .initAddress _ => false
  | .initKeybytes => false

/-- The table of 60_exceptions.md R156: whether a command is legal in an FSM state. -/
def legalIn (i : Instr) (f : Fsm) : Bool :=
  match i with
  | .parity _ _ => true
  | .start _ _ _ _ => decide (f = .idle) || decide (f = .closed)
  | .stop => decide (f = .active)
  | .idle => decide (f = .active)
  | .send _ _ _ => decide (f = .active)
  | .recv _ => decide (f = .active)
  | .reqresp _ _ _ _ => decide (f = .active)
  | .frame _ _ _ _ _ => true
  | .frameStopsession _ _ _ => true
  | .frameKeepalive _ _ _ => true
  | .initAddress _ => true
  | .initKeybytes => true

/-- The events that `t` has beyond `s`. -/
def newEvents (s t : State) : List Event := t.events.drop s.events.length

/-- The transport and the clock of `t` are what `entries`, the events between `s` and `t`, leave: the line as
the last `T.configure` set it, the input and the settled answers that no transaction has consumed or
flushed, the clock at the last event's completion, `start` when there is none (10_state.md R33, 20_memory.md
R48). -/
def LeftBy (entries : List TraceEntry) (start : Nat) (s t : State) : Prop :=
  t.line = entries.foldl (fun line entry => entry.event.lineAfter line) s.line ∧
  t.rx = entries.foldl (fun rx entry => entry.event.rxAfter rx) s.rx ∧
  t.initAnswers = entries.foldl (fun rs entry => entry.event.initAnswersAfter rs) s.initAnswers ∧
  t.sendAnswers = entries.foldl (fun rs entry => entry.event.sendAnswersAfter rs) s.sendAnswers ∧
  t.clock = (entries.map (·.done)).getLastD start

end Sys2Proof.Machine
end

