-- ==== Sys2Proof/Certificates/Slice0/Obligations.lean ====
section
/-! DEFINITION. The statements for the provers. -/

open Sys2Proof Sys2Proof.Machine

/-! Fetching and the command port. -/

/-- 20_memory.md R41, R56: when the input at the head of the ports decodes to an instruction, the step is
the whole instruction, in a state that differs from the one before only in that the input is taken and
time has passed (`delays` and `draws` are the model's record of that, assumption log 2 and 3). -/
def Obligations.StepRunsTheDecodedInstruction : Prop :=
  ∀ (s : State) (x : PortInput) (rest : List PortInput) (i : Instr),
    s.inbox = x :: rest → decode x = .ok i →
    ∃ u : State, step s = exec i u ∧ u.inbox = rest ∧ SameBlock s u ∧ SameTransport s u ∧
      u.capFullInit = s.capFullInit ∧ u.capCksum = s.capCksum ∧ u.trace = s.trace ∧
      u.responses = s.responses ∧ s.clock ≤ u.clock

/-- 10_state.md R35, 60_exceptions.md R166: with nothing at the ports the block waits, its state intact.
That waiting is a step in which only time passes is the model's choice (assumption log 20). -/
def Obligations.WaitingLeavesEverythingButTimeAlone : Prop :=
  ∀ s : State, s.inbox = [] →
    ∃ t, step s = .next t ∧ SameBlock s t ∧ SameTransport s t ∧ SamePorts s t ∧
      t.trace = s.trace ∧ t.responses = s.responses ∧ s.clock ≤ t.clock

/-- 30_encoding.md R77: a packet whose opcode is not one of the seven, whose length is not the layout's or
whose PARITY `mode` is reserved completes with BadCommand, makes no transaction, performs no wait and changes no
state. -/
def Obligations.UndefinedPacketGetsBadCommand : Prop :=
  ∀ (s : State) (bytes : List Byte) (rest : List PortInput),
    s.inbox = .packet bytes :: rest → ¬FitsLayout bytes →
    ∃ t, step s = .next t ∧ t.responses = s.responses ++ [[0x0F]] ∧ t.trace = s.trace ∧
      SameBlock s t ∧ SameTransport s t ∧ t.inbox = rest ∧
      t.capFullInit = s.capFullInit ∧ t.capCksum = s.capCksum ∧ s.clock ≤ t.clock

/-- 30_encoding.md R70, R71, R73, R77: the decoder reads a command from a packet exactly when its opcode is one of
the seven, a PARITY `mode` is 0x00 or 0x01, and its length is the one the layout gives. -/
def Obligations.PacketIsDefinedExactlyByTheLayouts : Prop :=
  ∀ bytes : List Byte, (∃ i, decodePacket bytes = .ok i) ↔ FitsLayout bytes

/-- 30_encoding.md R78: the length of a command packet is found from byte 0 alone, but from byte 3 for SEND
and byte 5 for REQRESP; it is the length of the packet, and bytes that follow do not change it. -/
def Obligations.PacketLengthIsFoundFromTheFirstBytes : Prop :=
  ∀ (bytes more : List Byte) (i : Instr), decodePacket bytes = .ok i →
    packetLength (bytes ++ more) = some bytes.length ∧
    (∀ v m, i = .parity v m → bytes.length = 3) ∧
    (∀ f b t r, i = .start f b t r → bytes.length = 8) ∧
    (i = .stop → bytes.length = 1) ∧ (i = .idle → bytes.length = 1) ∧
    (∀ d r p, i = .send d r p → ∃ len, bytes[3]? = some len ∧ bytes.length = 4 + len.toNat) ∧
    (∀ t, i = .recv t → bytes.length = 3) ∧
    (∀ t d r p, i = .reqresp t d r p → ∃ len, bytes[5]? = some len ∧ bytes.length = 6 + len.toNat)

/-- 30_encoding.md R82 and the wire formats of R60, R66 to R68: words written out byte by byte decode to the
instruction they stand for. -/
def Obligations.WrittenOutWordsDecode : Prop :=
  decode (.packet [0x01, 0x33, 0x01]) = .ok (.parity 0x33 .odd) ∧
  decode (.packet [0x10, 0x00, 0x00, 0x00, 0x00, 0x00, 0x33, 0x21]) = .ok (.start 0 0 0x33 0x21) ∧
  decode (.packet [0x10, 0x00, 0x00, 0x00, 0x28, 0xA0, 0x33, 0x21]) =
    .ok (.start 0 10400 0x33 0x21) ∧
  decode (.packet [0x11]) = .ok .stop ∧
  decode (.packet [0x12]) = .ok .idle ∧
  decode (.packet [0x20, 0x00, 0x00, 0x01, 0x3E]) = .ok (.send 0 0 [0x3E]) ∧
  decode (.packet [0x21, 0x01, 0xF4]) = .ok (.recv 500) ∧
  decode (.packet [0x22, 0x03, 0xE8, 0x7A, 0x00, 0x02, 0xB9, 0xF0]) =
    .ok (.reqresp 1000 0x7A 0 [0xB9, 0xF0]) ∧
  decode (.line ⟨[0x83, 0x21, 0x33, 0x7E, 0x01, 0x55], by decide⟩) =
    .ok (.frame 0x83 0x21 0x33 [0x7E, 0x01] 0x55) ∧
  decode (.line ⟨[0x82, 0x33, 0x21, 0xA0, 0x55], by decide⟩) = .ok (.frameStopsession 0x33 0x21 0x55) ∧
  decode (.line ⟨[0x82, 0x33, 0x21, 0xA1, 0x55], by decide⟩) = .ok (.frameKeepalive 0x33 0x21 0x55) ∧
  decode (.address 0xB3) = .ok (.initAddress 0x33) ∧
  decode (.initAnswer (.ok 0xD3 0xB0)) = .ok .initKeybytes

/-- 30_encoding.md R60 to R73: decoding what the encoder gives, at the port where it is read, gives the
instruction back, with every operand. -/
def Obligations.DecodingAnEncodedInstructionGivesItBack : Prop :=
  ∀ i : Instr, i.wellFormed = true → decode (encodeInput i) = .ok i

/-- The other direction: what decodes is the encoding of what it decodes to, so no two words of a port
have one meaning and no ill-formed instruction is read. -/
def Obligations.OnlyItsOwnEncodingDecodesToAnInstruction : Prop :=
  ∀ (x : PortInput) (i : Instr), decode x = .ok i → encodeInput i = x ∧ i.wellFormed = true

/-- 20_memory.md R45: multi-byte operands and results travel most significant byte first: the bitrate and the
timeout in a packet, the bitrate in a START response and the time in a message response. -/
def Obligations.MultiByteOperandsTravelMostSignificantFirst : Prop :=
  (∀ flags b3 b2 b1 b0 target source : Byte, ∃ bitrate : Word32,
    decodePacket [0x10, flags, b3, b2, b1, b0, target, source] =
      .ok (.start flags bitrate target source) ∧
    bitrate.toNat = b3.toNat * 2 ^ 24 + b2.toNat * 2 ^ 16 + b1.toNat * 2 ^ 8 + b0.toNat) ∧
  (∀ t1 t0 dest src : Byte, ∃ timeout : Timeout,
    decodePacket [0x21, t1, t0] = .ok (.recv timeout) ∧
    decodePacket [0x22, t1, t0, dest, src, 0] = .ok (.reqresp timeout dest src []) ∧
    timeout.toNat = t1.toNat * 2 ^ 8 + t0.toNat) ∧
  (∀ ss : Session, ∃ b3 b2 b1 b0 : Byte,
    sessionPacket ss = [0x00, ss.src, ss.dst, b3, b2, b1, b0, ss.kb1, ss.kb2] ∧
    ss.bitrate.toNat = b3.toNat * 2 ^ 24 + b2.toNat * 2 ^ 16 + b1.toNat * 2 ^ 8 + b0.toNat) ∧
  (∀ m : InMessage, ∃ t3 t2 t1 t0 : Byte,
    messagePacket m = [0x00, m.dest, m.src, BitVec.ofNat 8 m.payload.length] ++ m.payload ++
      [t3, t2, t1, t0] ∧
    m.time.toNat = t3.toNat * 2 ^ 24 + t2.toNat * 2 ^ 16 + t1.toNat * 2 ^ 8 + t0.toNat)

/-- 30_encoding.md R81: the expansions of the three pseudo-instructions. -/
def Obligations.PseudoInstructionsExpand : Prop :=
  (∀ p, expandPseudo (.sends p) = .send 0 0 p) ∧
  (∀ tmo p, expandPseudo (.reqs tmo p) = .reqresp tmo 0 0 p) ∧
  (∀ target source, expandPseudo (.startSlow target source) = .start 0 0 target source)

/-! The parity encoder. -/

/-- 40_parity.md R90: the low seven bits are untouched, bit 7 is the exclusive or of the seed (1 for ODD)
with the seven low bits, and so the result has an odd number of one bits exactly in ODD mode. -/
def Obligations.ParityIsOverTheSevenLowBits : Prop :=
  ∀ (v : Byte) (m : ParityMode),
    (∀ k, k < 7 → (parityByte v m).getLsbD k = v.getLsbD k) ∧
    (parityByte v m).getLsbD 7 =
      (decide (m = .odd) ^^ v.getLsbD 6 ^^ v.getLsbD 5 ^^ v.getLsbD 4 ^^ v.getLsbD 3 ^^ v.getLsbD 2 ^^
        v.getLsbD 1 ^^ v.getLsbD 0) ∧
    ((List.range 8).countP (fun k => (parityByte v m).getLsbD k) % 2 = 1 ↔ m = .odd)

/-- 40_parity.md R92: the corner cases and laws of `Parity`. -/
def Obligations.ParityCornerCasesAndLaws : Prop :=
  parityByte 0x00 .even = 0x00 ∧ parityByte 0x00 .odd = 0x80 ∧
  parityByte 0x7F .even = 0xFF ∧ parityByte 0x7F .odd = 0x7F ∧ parityByte 0x80 .odd = 0x80 ∧
  ∀ v : Byte, parityByte v .odd = parityByte v .even ^^^ 0x80 ∧
    ∀ m : ParityMode,
      parityByte v m &&& 0x7F = v &&& 0x7F ∧
      parityByte v m = parityByte (v &&& 0x7F) m ∧ parityByte v m = parityByte (v ||| 0x80) m ∧
      parityByte (parityByte v m) m = parityByte v m

/-- 40_parity.md R91: PARITY answers in every FSM state that the host can observe (Idle, Active, Closed) and
changes nothing but the response; its packet is `[0x01, value, mode]`, undefined when `mode` is neither 0x00
nor 0x01. That it answers in Initializing and Stopping too is the model's choice (assumption log 12). -/
def Obligations.ParityCommandAnswersInEveryState : Prop :=
  (∀ (s : State) (v : Byte) (m : ParityMode), exec (.parity v m) s =
    .next { s with responses := s.responses ++ [[0x00, parityByte v m]] }) ∧
  ∀ v mode : Byte, decodePacket [0x01, v, mode] =
    if mode = 0x00 then .ok (.parity v .even) else if mode = 0x01 then .ok (.parity v .odd)
    else .undefined .reservedMode

/-! Frames. -/

/-- 30_encoding.md R61: the length byte for the legal lengths, as a sum and bit by bit. -/
def Obligations.LengthByteOfTheLegalLengths : Prop :=
  ∀ L : Nat, 1 ≤ L → L ≤ 14 →
    (lenByte L).toNat = 0x80 + L + 1 ∧ (lenByte L).getLsbD 7 = true ∧
    (lenByte L).extractLsb' 4 3 = 0 ∧ ((lenByte L).extractLsb' 0 4).toNat = L + 1

/-- 30_encoding.md R62: the two fallbacks are independent on the way out; on the way in the addresses are
taken from the header as they are. -/
def Obligations.AddressesFallBackOnlyOnTheWayOut : Prop :=
  (∀ (m : OutMessage) (ss : Session),
    (encodeFrame m ss)[1]? = some (if m.dest ≠ 0 then m.dest else ss.dst) ∧
    (encodeFrame m ss)[2]? = some (if m.src ≠ 0 then m.src else ss.src)) ∧
  (∀ (len da sa : Byte) (rest : List Byte), (decodeFrame (len :: da :: sa :: rest)).1 = da ∧
    (decodeFrame (len :: da :: sa :: rest)).2.1 = sa)

/-- 30_encoding.md R66: the two control messages, as TX images and as the frames on the wire with their
checksum byte. -/
def Obligations.ControlMessagesAsFrames : Prop :=
  ∀ (ss : Session) (ck : Byte),
    encodeFrame ⟨[0xA0], 0, 0⟩ ss = [0x82, ss.dst, ss.src, 0xA0] ∧
    encodeFrame ⟨[0xA1], 0, 0⟩ ss = [0x82, ss.dst, ss.src, 0xA1] ∧
    encode (.frameStopsession ss.dst ss.src ck) = encodeFrame ⟨[0xA0], 0, 0⟩ ss ++ [ck] ∧
    encode (.frameKeepalive ss.dst ss.src ck) = encodeFrame ⟨[0xA1], 0, 0⟩ ss ++ [ck]

/-- 30_encoding.md R67: the byte START gives to `T.initBus` is the INIT.ADDRESS word of bits 6 to 0 of the
target. -/
def Obligations.InitAddressByteIsTheTargetWithOddParity : Prop :=
  ∀ target : Byte,
    encode (.initAddress (target.extractLsb' 0 7)) = [parityByte target .odd] ∧
    (∀ k, k < 7 → (parityByte target .odd).getLsbD k = target.getLsbD k) ∧
    decode (.address (parityByte target .odd)) = .ok (.initAddress (target.extractLsb' 0 7))

/-- 42_framer.md R130: decoding an encoded frame with any checksum byte gives the payload and the addresses
that were chosen. -/
def Obligations.DecodeFrameUndoesEncodeFrame : Prop :=
  ∀ (p : List Byte) (dest src : Byte) (ss : Session) (ck : Byte), 1 ≤ p.length → p.length ≤ 14 →
    decodeFrame (encodeFrame ⟨p, dest, src⟩ ss ++ [ck]) =
      (if dest = 0 then ss.dst else dest, if src = 0 then ss.src else src, p)

/-! The session machine. -/

/-- 41_session.md R100 to R102, 60_exceptions.md R157: the three checks of START in their order, each with its
status and nothing else changed. -/
def Obligations.StartRefusesInTheOrderOfItsChecks : Prop :=
  ∀ (s : State) (flags : Byte) (bitrate : Word32) (target source : Byte),
    (s.fsm = .active → exec (.start flags bitrate target source) s =
      .next { s with responses := s.responses ++ [[0x0E]] }) ∧
    (s.fsm = .idle ∨ s.fsm = .closed → ¬(s.capFullInit = true ∧ s.capCksum = true) →
      exec (.start flags bitrate target source) s =
        .next { s with responses := s.responses ++ [[0x03]] }) ∧
    (s.fsm = .idle ∨ s.fsm = .closed → s.capFullInit = true → s.capCksum = true →
      flags.getLsbD 0 = true ∨ flags.getLsbD 1 = true →
      exec (.start flags bitrate target source) s =
        .next { s with responses := s.responses ++ [[0x04]] })

/-- 41_session.md R109: with both capabilities, slow-init and the key bytes 0xD3, 0xB0 as the transport's
answer, START completes with OK: the events, the session, the response, the line. The input that waited
before the flush is gone (10_state.md R33). That a settled answer is the one the transport gives is the model's
choice (assumption log 1), and so is that a flush keeps the receive failures that are settled (log 10). -/
def Obligations.StartSucceedsWithTheFixedKeyBytes : Prop :=
  ∀ (s : State) (flags : Byte) (bitrate : Word32) (target source : Byte) (more : List InitAnswer),
    s.fsm = .idle ∨ s.fsm = .closed → s.capFullInit = true → s.capCksum = true →
    flags.getLsbD 0 = false → flags.getLsbD 1 = false → s.initAnswers = .ok 0xD3 0xB0 :: more →
    ∃ t, exec (.start flags bitrate target source) s = .next t ∧ t.fsm = .active ∧
      t.sess = some ⟨source, target, if bitrate = 0 then 10400 else bitrate, 0xD3, 0xB0⟩ ∧
      t.responses = s.responses ++ [[0x00, source, target] ++
        be32 (if bitrate = 0 then 10400 else bitrate) ++ [0xD3, 0xB0]] ∧
      Happened .initializing (startingOf bitrate target source (.ok 0xD3 0xB0)) s t ∧
      t.line = some ⟨if bitrate = 0 then 10400 else bitrate, 8, 1, .none⟩ ∧
      t.rx = s.rx.filter (fun a => !isInput a) ∧ t.initAnswers = more ∧
      t.sendAnswers = s.sendAnswers ∧ SamePorts s t ∧ s.clock + 300 ≤ t.clock

/-- 41_session.md R103 to R108, R110: once the preconditions have passed, START does as the answer of
`T.initBus` says, whatever it is: Active with the session on 0xD3, 0xB0; Closed, no session and
WrongKeyBytes on any other pair; Closed, no session and TransportError(e) on an error. That a settled answer is
the one given is the model's choice (assumption log 1), and so is that a flush keeps the receive failures that
are settled (log 10). -/
def Obligations.StartFollowsTheAnswerOfInitBus : Prop :=
  ∀ (s : State) (flags : Byte) (bitrate : Word32) (target source : Byte),
    s.fsm = .idle ∨ s.fsm = .closed → s.capFullInit = true → s.capCksum = true →
    flags.getLsbD 0 = false → flags.getLsbD 1 = false →
    ∃ t r, exec (.start flags bitrate target source) s = .next t ∧
      (∀ a, s.initAnswers.head? = some a → r = a) ∧
      Happened .initializing (startingOf bitrate target source r) s t ∧
      t.line = some ⟨if bitrate = 0 then 10400 else bitrate, 8, 1, .none⟩ ∧
      t.rx = s.rx.filter (fun a => !isInput a) ∧ t.initAnswers = s.initAnswers.tail ∧
      t.sendAnswers = s.sendAnswers ∧ SamePorts s t ∧ s.clock + 300 ≤ t.clock ∧
      (r = .ok 0xD3 0xB0 → t.fsm = .active ∧
        t.sess = some ⟨source, target, if bitrate = 0 then 10400 else bitrate, 0xD3, 0xB0⟩ ∧
        t.responses = s.responses ++ [[0x00, source, target] ++
          be32 (if bitrate = 0 then 10400 else bitrate) ++ [0xD3, 0xB0]]) ∧
      (∀ kb1 kb2, r = .ok kb1 kb2 → ¬(kb1 = 0xD3 ∧ kb2 = 0xB0) → t.fsm = .closed ∧ t.sess = none ∧
        t.responses = s.responses ++ [[0x05]]) ∧
      (∀ e, r = .err e → t.fsm = .closed ∧ t.sess = none ∧
        t.responses = s.responses ++ [[0x06, e.code]])

/-- 30_encoding.md R72: bits 7 to 2 of `flags` have no effect. -/
def Obligations.StartIgnoresTheHighFlagBits : Prop :=
  ∀ (s : State) (flags flags' : Byte) (bitrate : Word32) (target source : Byte),
    flags &&& 0x03 = flags' &&& 0x03 →
    exec (.start flags bitrate target source) s = exec (.start flags' bitrate target source) s

/-- 41_session.md R100: a START from Closed behaves in every respect like one from Idle: the two end in the
same state, but for an FSM that a refusal leaves as it was. -/
def Obligations.StartFromClosedIsStartFromIdle : Prop :=
  ∀ (s : State) (flags : Byte) (bitrate : Word32) (target source : Byte),
    ∃ t u, exec (.start flags bitrate target source) { s with fsm := .idle } = .next t ∧
      exec (.start flags bitrate target source) { s with fsm := .closed } = .next u ∧
      (u = t ∨ (t.fsm = .idle ∧ u = { t with fsm := .closed }))

/-- 41_session.md R111 to R113: an accepted STOP always ends Closed with no session and status OK. Its
stop-session exchange runs while FSM is Stopping, with a receive budget of 1100; a failed send, a failed
receive and a short reply are followed by the warning and the wait of 5000; any frame counts as the
acknowledgement. When FSM is not Active, STOP gets BadState and nothing is done. That settled answers and
waiting input are what the transport gives is the model's choice (assumption log 1, 11). -/
def Obligations.StopAlwaysReleasesTheSession : Prop :=
  (∀ s : State, s.fsm ≠ .active →
    exec .stop s = .next { s with responses := s.responses ++ [[0x0E]] }) ∧
  ∀ (s : State) (ss : Session), s.fsm = .active → s.sess = some ss →
    ∃ t r q, exec .stop s = .next t ∧ t.fsm = .closed ∧ t.sess = none ∧
      t.responses = s.responses ++ [[0x00]] ∧ SamePorts s t ∧ t.line = s.line ∧
      t.initAnswers = s.initAnswers ∧ t.sendAnswers = s.sendAnswers.tail ∧
      s.clock + Config.msgGapMs.toNat ≤ t.clock ∧
      (∀ a, s.sendAnswers.head? = some a → r = a) ∧ (∀ a, s.rx.head? = some a → q = a) ∧
      (∀ e, r = .err e → t.rx = s.rx ∧ s.clock + Config.msgGapMs.toNat + 5000 ≤ t.clock ∧
        Happened .stopping (sendingOf [0x82, ss.dst, ss.src, 0xA0] r ++
          [.warn .stopNotAcknowledged, .wait 5000]) s t) ∧
      (r = .ok → t.rx = s.rx.tail ∧
        ((∀ rx, q = .ok rx → rx.bytes.length < 5) →
          s.clock + Config.msgGapMs.toNat + 5000 ≤ t.clock ∧
          Happened .stopping (sendingOf [0x82, ss.dst, ss.src, 0xA0] r ++
            [.receive 18 1100 q, .warn .stopNotAcknowledged, .wait 5000]) s t) ∧
        (∀ rx, q = .ok rx → 5 ≤ rx.bytes.length → ∃ time,
          Happened .stopping (sendingOf [0x82, ss.dst, ss.src, 0xA0] r ++
            [.receive 18 1100 q, .now time]) s t))

/-- 41_session.md R114: an accepted IDLE answers OK whatever its exchange gives, and FSM and the session
stay; no warning, no fallback wait. When FSM is not Active, IDLE gets BadState and nothing is done. That settled
answers and waiting input are what the transport gives is the model's choice (assumption log 1, 11). -/
def Obligations.IdleProbesAndSwallowsErrors : Prop :=
  (∀ s : State, s.fsm ≠ .active →
    exec .idle s = .next { s with responses := s.responses ++ [[0x0E]] }) ∧
  ∀ (s : State) (ss : Session), s.fsm = .active → s.sess = some ss →
    ∃ t r q, exec .idle s = .next t ∧ SameBlock s t ∧ t.responses = s.responses ++ [[0x00]] ∧
      SamePorts s t ∧ t.line = s.line ∧ t.initAnswers = s.initAnswers ∧
      t.sendAnswers = s.sendAnswers.tail ∧ s.clock + Config.msgGapMs.toNat ≤ t.clock ∧
      (∀ a, s.sendAnswers.head? = some a → r = a) ∧ (∀ a, s.rx.head? = some a → q = a) ∧
      (∀ e, r = .err e → t.rx = s.rx ∧
        Happened .active (sendingOf [0x82, ss.dst, ss.src, 0xA1] r) s t) ∧
      (r = .ok → t.rx = s.rx.tail ∧
        ((∀ rx, q = .ok rx → rx.bytes.length < 5) →
          Happened .active (sendingOf [0x82, ss.dst, ss.src, 0xA1] r ++ [.receive 18 1100 q]) s t) ∧
        (∀ rx, q = .ok rx → 5 ≤ rx.bytes.length → ∃ time,
          Happened .active (sendingOf [0x82, ss.dst, ss.src, 0xA1] r ++
            [.receive 18 1100 q, .now time]) s t))

/-- 41_session.md R115: what START, STOP and IDLE may do to FSM and the session, by their status, in a state
between two commands. -/
def Obligations.SessionFamilyOutcomes : Prop :=
  ∀ (s : State), SessionOk s →
    (∀ flags bitrate target source, ∃ t p, exec (.start flags bitrate target source) s = .next t ∧
      t.responses = s.responses ++ [p] ∧
      (s.fsm = .active → p = [0x0E] ∧ SameBlock s t) ∧
      (s.fsm ≠ .active → (p = [0x03] ∨ p = [0x04]) ∧ SameBlock s t ∧ t.sess = none ∨
        ((∃ e, p = [0x06, e]) ∨ p = [0x05]) ∧ t.fsm = .closed ∧ t.sess = none ∨
        p.head? = some 0x00 ∧ t.fsm = .active ∧
          t.sess = some ⟨source, target, if bitrate = 0 then 10400 else bitrate, 0xD3, 0xB0⟩)) ∧
    (∃ t p, exec .stop s = .next t ∧ t.responses = s.responses ++ [p] ∧
      (s.fsm = .active → p = [0x00] ∧ t.fsm = .closed ∧ t.sess = none) ∧
      (s.fsm ≠ .active → p = [0x0E] ∧ SameBlock s t ∧ t.sess = none)) ∧
    (∃ t p, exec .idle s = .next t ∧ t.responses = s.responses ++ [p] ∧ SameBlock s t ∧
      (s.fsm = .active → p = [0x00]) ∧ (s.fsm ≠ .active → p = [0x0E] ∧ t.sess = none))

/-! The framer and request/response. -/

/-- 42_framer.md R121, 43_reqresp.md R141: a payload of 0 or of 15 and more bytes is BadLength, before anything
else happens, in SEND and in REQRESP. -/
def Obligations.IllegalPayloadLengthIsBadLength : Prop :=
  ∀ (s : State) (ss : Session) (dest src : Byte) (payload : List Byte) (timeout : Timeout),
    s.fsm = .active → s.sess = some ss → ¬(1 ≤ payload.length ∧ payload.length ≤ 14) →
    exec (.send dest src payload) s = .next { s with responses := s.responses ++ [[0x01]] } ∧
    exec (.reqresp timeout dest src payload) s =
      .next { s with responses := s.responses ++ [[0x01]] }

/-- 42_framer.md R120, R122, R123: SEND with a legal payload waits, hands its frame to the transport and
answers with the transport's verdict; nothing else of the block changes. That a settled answer is the one the
transport gives is the model's choice (assumption log 1). -/
def Obligations.SendTransmitsItsFrame : Prop :=
  ∀ (s : State) (ss : Session) (dest src : Byte) (payload : List Byte),
    s.fsm = .active → s.sess = some ss → 1 ≤ payload.length → payload.length ≤ 14 →
    ∃ t r, exec (.send dest src payload) s = .next t ∧
      (∀ a, s.sendAnswers.head? = some a → r = a) ∧
      Happened .active (sendingOf (frameOf ss dest src payload) r) s t ∧
      (r = .ok → t.responses = s.responses ++ [[0x00]]) ∧
      (∀ e, r = .err e → t.responses = s.responses ++ [[0x06, e.code]]) ∧
      SameBlock s t ∧ SamePorts s t ∧ t.line = s.line ∧ t.rx = s.rx ∧
      t.initAnswers = s.initAnswers ∧ t.sendAnswers = s.sendAnswers.tail ∧
      s.clock + Config.msgGapMs.toNat ≤ t.clock

/-- 42_framer.md R124 to R128: RECV makes one `T.receive` of 18 bytes with the timeout plus 100, exactly,
and answers with its outcome; nothing else of the block changes. When FSM is not Active, RECV gets BadState and
nothing is done. That the timestamp is the clock at the end of the command is the model's choice (reading the
time takes none, assumption log 2; R128 says only that it is read after `T.receive` has answered and before the
command completes), and so is that waiting input is what the transport gives (log 1, 11). -/
def Obligations.RecvReturnsOneRead : Prop :=
  (∀ (s : State) (timeout : Timeout), s.fsm ≠ .active →
    exec (.recv timeout) s = .next { s with responses := s.responses ++ [[0x0E]] }) ∧
  ∀ (s : State) (timeout : Timeout), s.fsm = .active →
    ∃ t q, exec (.recv timeout) s = .next t ∧
      (∀ a, s.rx.head? = some a → q = a) ∧
      ReceiveOutcome [] (timeout.toNat + 100) q s t ∧
      SameBlock s t ∧ SamePorts s t ∧ t.line = s.line ∧ t.rx = s.rx.tail ∧
      t.initAnswers = s.initAnswers ∧ t.sendAnswers = s.sendAnswers ∧ s.clock ≤ t.clock

/-- 43_reqresp.md R140, R141: REQRESP with a legal payload sends its frame; when the send fails that error
is the answer and nothing is received, else it receives once and answers with the outcome. That the timestamp is
the clock at the end of the command is the model's choice (assumption log 2), and so is that settled answers
and waiting input are what the transport gives (log 1, 11). -/
def Obligations.ReqrespPairsOneSendWithOneReceive : Prop :=
  ∀ (s : State) (ss : Session) (timeout : Timeout) (dest src : Byte) (payload : List Byte),
    s.fsm = .active → s.sess = some ss → 1 ≤ payload.length → payload.length ≤ 14 →
    ∃ t r q, exec (.reqresp timeout dest src payload) s = .next t ∧
      (∀ a, s.sendAnswers.head? = some a → r = a) ∧ (∀ a, s.rx.head? = some a → q = a) ∧
      (∀ e, r = .err e → Happened .active (sendingOf (frameOf ss dest src payload) r) s t ∧
        t.rx = s.rx ∧ t.responses = s.responses ++ [[0x06, e.code]]) ∧
      (r = .ok → t.rx = s.rx.tail ∧
        ReceiveOutcome (sendingOf (frameOf ss dest src payload) r) (timeout.toNat + 100) q s t) ∧
      SameBlock s t ∧ SamePorts s t ∧ t.line = s.line ∧ t.initAnswers = s.initAnswers ∧
      t.sendAnswers = s.sendAnswers.tail ∧ s.clock + Config.msgGapMs.toNat ≤ t.clock

/-- 42_framer.md R127: the first and the last byte of a received frame have no influence: two states that
differ only in these bytes of the frame that waits first give RECV the same end state but for the
answers written into the history. That what waits first is what the transport gives is assumption log 11. -/
def Obligations.RecvIgnoresLengthAndChecksumBytes : Prop :=
  ∀ (s : State) (timeout : Timeout) (f g : RxImage) (more : List RecvAnswer),
    s.fsm = .active → f.bytes.length = g.bytes.length →
    (∀ k, 1 ≤ k → k + 1 < f.bytes.length → f.bytes[k]? = g.bytes[k]?) →
    ∃ t u, exec (.recv timeout) { s with rx := .ok f :: more } = .next t ∧
      exec (.recv timeout) { s with rx := .ok g :: more } = .next u ∧
      u = { t with trace := u.trace }

/-- 42_framer.md R130, the document's loopback property: when the transport takes a SEND's frame and returns
it with one more byte, the RECV after it gives back the payload and the chosen addresses. That the time in
its response is the clock at the end of the command is the model's choice (assumption log 2), and so is that
what waits is what the transport gives (log 1, 11). -/
def Obligations.LoopbackGivesThePayloadBack : Prop :=
  ∀ (s : State) (ss : Session) (dest src ck : Byte) (payload : List Byte) (timeout : Timeout)
    (echo : RxImage) (more : List SendAnswer),
    s.fsm = .active → s.sess = some ss → 1 ≤ payload.length → payload.length ≤ 14 →
    s.sendAnswers = .ok :: more → echo.bytes = frameOf ss dest src payload ++ [ck] →
    ∃ t u, exec (.send dest src payload) s = .next t ∧
      exec (.recv timeout) { t with rx := [.ok echo] } = .next u ∧
      u.responses = s.responses ++ [[0x00], [0x00, if dest = 0 then ss.dst else dest,
        if src = 0 then ss.src else src, BitVec.ofNat 8 payload.length] ++ payload ++
          be32 (BitVec.ofNat 32 u.clock)]

/-! Errors. -/

/-- 60_exceptions.md R156: a command that is not legal in the FSM state gets BadState and changes nothing else. In
the states Initializing and Stopping, in which no command can be issued, every command but PARITY is
answered so (assumption log 12). -/
def Obligations.IllegalCommandGetsBadState : Prop :=
  ∀ (i : Instr) (s : State), legalIn i s.fsm = false →
    exec i s = .next { s with responses := s.responses ++ [[0x0E]] }

/-- 60_exceptions.md R156, the other half: a command that is legal in the FSM state never gets BadState. -/
def Obligations.LegalCommandNeverGetsBadState : Prop :=
  ∀ (i : Instr) (s t : State), legalIn i s.fsm = true → isCommand i = true → exec i s = .next t →
    t.responses ≠ s.responses ++ [[0x0E]]

/-- 60_exceptions.md R154, the table of what an error changes, by cases: TransportError and WrongKeyBytes of START
leave Closed and no session; every other error of every command leaves FSM and the session as they were.
BadLength and TransportError of SEND, RECV and REQRESP occur only while FSM is Active, the precondition errors
of START only while it is Idle or Closed. (BadCommand is UndefinedPacketGetsBadCommand.) -/
def Obligations.ErrorsChangeOnlyWhatTheTableSays : Prop :=
  ∀ (i : Instr) (s t : State) (p : List Byte), isCommand i = true → exec i s = .next t →
    t.responses = s.responses ++ [p] →
    (isStart i = true → p.head? = some 0x05 ∨ p.head? = some 0x06 → t.fsm = .closed ∧ t.sess = none) ∧
    (p.head? ≠ some 0x00 → ¬(isStart i = true ∧ (p.head? = some 0x05 ∨ p.head? = some 0x06)) →
      SameBlock s t) ∧
    (isStart i = false → p.head? = some 0x01 ∨ p.head? = some 0x06 → s.fsm = .active) ∧
    (p.head? = some 0x03 ∨ p.head? = some 0x04 → isStart i = true ∧ (s.fsm = .idle ∨ s.fsm = .closed))

/-- 10_state.md R26, R36, 60_exceptions.md R156: between two commands, while there is no session, the five commands of
a session are refused with BadState and nothing else changes; and while FSM is not Active no instruction reads
what the session registers hold: whatever `x` is put into them, it goes on to the same state, in which they
hold what it wrote or, if it wrote nothing, still `x`. An instruction faults exactly when it would read
the session's addresses and FSM is Active without a session: that the model faults there, in states that no run
reaches, is its choice (assumption log 13). -/
def Obligations.NoSessionRegisterIsReadWithoutASession : Prop :=
  (∀ (s : State) (timeout : Timeout) (dest src : Byte) (payload : List Byte),
    SessionOk s → s.sess = none →
    ∀ i ∈ [Instr.stop, .idle, .send dest src payload, .recv timeout, .reqresp timeout dest src payload],
      exec i s = .next { s with responses := s.responses ++ [[0x0E]] }) ∧
  (∀ (i : Instr) (s : State) (x : Option Session), s.fsm ≠ .active →
    ∃ t u, exec i { s with sess := none } = .next t ∧ exec i { s with sess := x } = .next u ∧
      (u = t ∨ (t.sess = none ∧ u = { t with sess := x }))) ∧
  ∀ (i : Instr) (s : State) (why : Fault),
    exec i s = .fault why ↔ readsSession i = true ∧ s.fsm = .active ∧ s.sess = none

/-! The transport's side. -/

/-- 10_state.md R33, 60_exceptions.md R159: a frame on the line waits behind the input already there, and nothing
else changes. That it is the model's reading of the row FRAME is assumption log 6. -/
def Obligations.FrameOnTheLineWaits : Prop :=
  ∀ (s : State) (len da sa ck : Byte) (payload : List Byte), 1 ≤ payload.length → payload.length ≤ 14 →
    ∃ x : RxImage, x.bytes = [len, da, sa] ++ payload ++ [ck] ∧
      exec (.frame len da sa payload ck) s = .next { s with rx := s.rx ++ [.ok x] }

/-- 30_encoding.md R63, R66: a stop-session frame and a keepalive frame on the line wait like any other frame
(assumption log 6). -/
def Obligations.ControlFramesOnTheLineWait : Prop :=
  ∀ (s : State) (da sa ck : Byte), ∃ x y : RxImage,
    x.bytes = [0x82, da, sa, 0xA0, ck] ∧ y.bytes = [0x82, da, sa, 0xA1, ck] ∧
    exec (.frameStopsession da sa ck) s = .next { s with rx := s.rx ++ [.ok x] } ∧
    exec (.frameKeepalive da sa ck) s = .next { s with rx := s.rx ++ [.ok y] }

/-- 41_session.md R107, R108: an address byte on the line changes nothing of the block, and the pair 0xD3,
0xB0 becomes the transport's next answer to `T.initBus` (assumption log 8, 9). -/
def Obligations.InitItemsActOnTheTransportOnly : Prop :=
  ∀ (s : State) (a : BitVec 7),
    exec (.initAddress a) s = .next s ∧
    exec .initKeybytes s = .next { s with initAnswers := s.initAnswers ++ [.ok 0xD3 0xB0] }

/-- 20_memory.md R42, 10_state.md R32, R33: what an input that is no instruction does: it settles an answer of
the transport, brings bytes that are no frame (30_encoding.md R79), or sets the capability levels. FSM, the
session, the history and the responses stay. The model's choices: inputs are one ordered list (assumption log 5),
settled answers and failures queue at the end (log 1, 11), and a byte sent at 5 baud that is no INIT.ADDRESS
changes nothing, like one that is (log 8). -/
def Obligations.OtherInputsActOnTheOutsideOnly : Prop :=
  ∀ (s : State) (x : PortInput) (rest : List PortInput) (why : DecodeError),
    s.inbox = x :: rest → decode x = .undefined why → (∀ b, x ≠ .packet b) → x ≠ .reset →
    (∀ b k, x ≠ .resetDuring b k) →
    ∃ t, step s = .next t ∧ SameBlock s t ∧ t.trace = s.trace ∧ t.responses = s.responses ∧
      t.line = s.line ∧ t.inbox = rest ∧
      t.rx = s.rx ++ (match x with
        | .line f => [.ok f]
        | .receiveError e => [.err e]
        | _ => []) ∧
      t.initAnswers = s.initAnswers ++ (match x with
        | .initAnswer r => [r]
        | _ => []) ∧
      t.sendAnswers = s.sendAnswers ++ (match x with
        | .sendAnswer r => [r]
        | _ => []) ∧
      (match x with
        | .capabilities a b => t.capFullInit = a ∧ t.capCksum = b
        | _ => t.capFullInit = s.capFullInit ∧ t.capCksum = s.capCksum)

/-! Reset. -/

/-- 70_reset_and_hazards.md R180: after reset FSM is Idle (encoding 0), there is no session, no event has
happened, and the block waits; the reset input gives the same and leaves the outside as it is. -/
def Obligations.ResetLeavesIdleAndNoSession : Prop :=
  State.reset.fsm = .idle ∧ fsmCode State.reset.fsm = 0 ∧ State.reset.sess = none ∧
  State.reset.trace = [] ∧ State.reset.responses = [] ∧ State.reset.inbox = [] ∧
  ∀ (s : State) (rest : List PortInput), s.inbox = .reset :: rest →
    ∃ t, step s = .next t ∧ t.fsm = .idle ∧ t.sess = none ∧ SameTransport s t ∧ t.inbox = rest ∧
      t.capFullInit = s.capFullInit ∧ t.capCksum = s.capCksum ∧ t.trace = s.trace ∧
      t.responses = s.responses ∧ s.clock ≤ t.clock

/-- 70_reset_and_hazards.md R180, R181: a reset during a command abandons it without a response: the events that had
happened stand (with the times at which they happened), and the transport's settings and input and the clock
are what these events leave, as far as they had come; FSM is Idle, there is no session, and the capability
inputs are unaffected. When every event had happened, the transport is as the whole command leaves it. A packet
that is undefined has no event: reset during it leaves Idle and no session and suppresses the response. That
a reset strikes between two events is assumption log 15. -/
def Obligations.ResetDuringACommandAbandonsIt : Prop :=
  (∀ (s : State) (bytes : List Byte) (k : Nat) (rest : List PortInput) (i : Instr) (full : State),
    s.inbox = .resetDuring bytes k :: rest → decodePacket bytes = .ok i →
    exec i (s.fetched rest) = .next full →
    ∃ t, step s = .next t ∧ t.fsm = .idle ∧ t.sess = none ∧ t.responses = s.responses ∧
      t.inbox = rest ∧ t.capFullInit = s.capFullInit ∧ t.capCksum = s.capCksum ∧
      t.trace = full.trace.take (s.trace.length + k) ∧
      LeftBy (t.trace.drop s.trace.length) (s.fetched rest).clock s t ∧
      (full.trace.length ≤ s.trace.length + k → SameTransport full t ∧ t.clock = full.clock)) ∧
  ∀ (s : State) (bytes : List Byte) (k : Nat) (rest : List PortInput) (why : DecodeError),
    s.inbox = .resetDuring bytes k :: rest → decodePacket bytes = .undefined why →
    ∃ t, step s = .next t ∧ t.fsm = .idle ∧ t.sess = none ∧ t.responses = s.responses ∧
      t.inbox = rest ∧ t.capFullInit = s.capFullInit ∧ t.capCksum = s.capCksum ∧ t.trace = s.trace ∧
      SameTransport s t ∧ s.clock ≤ t.clock

/-! Rules of the whole machine. -/

/-- The reset state meets the four invariants: the FSM and session values are 70_reset_and_hazards.md R180's; that
the history and the responses are empty is the model's choice (assumption log 3). -/
def Obligations.ResetMeetsTheInvariants : Prop :=
  SessionOk State.reset ∧ TraceOk State.reset ∧ TimeOk State.reset ∧ ResponsesOk State.reset

/-- 10_state.md R21, R25, R26: from every state between two commands a step leads to one: FSM is Idle,
Active or Closed, there is a session exactly while it is Active, the session's key bytes are 0xD3, 0xB0, and
the line is set as the session says. -/
def Obligations.StepKeepsTheSessionConsistent : Prop :=
  ∀ s t : State, SessionOk s → step s = .next t → SessionOk t

/-- 10_state.md R28 and the events of 41_session.md, 42_framer.md, 43_reqresp.md: every event of the history is
one the rules allow in its FSM state; every frame handed over obeys the length law, every receive asks for
18 bytes, every init address has odd parity. -/
def Obligations.StepKeepsTheHistoryLegal : Prop :=
  ∀ s t : State, TraceOk s → step s = .next t → TraceOk t

/-- 20_memory.md R43, R51, R52: the history stays in the order of time, every wait is completed no sooner than
its milliseconds after the events before it, and every time read is the low 32 bits of the elapsed
milliseconds (kept as a number: assumption log 2). -/
def Obligations.StepKeepsTheHistoryInTimeOrder : Prop :=
  ∀ s t : State, TimeOk s → step s = .next t → TimeOk t

/-- 30_encoding.md R74, R75, 10_state.md R28, 60_exceptions.md R153: every response is one the tables allow, byte for
byte: OK alone, OK with a PARITY result, OK with a session, OK with a message whose length byte counts its
1 to 14 payload bytes, TransportError with one byte that is not 0, or another status alone; OutOfMemory is
never among them. -/
def Obligations.StepKeepsTheResponsesLegal : Prop :=
  ∀ s t : State, ResponsesOk s → step s = .next t → ResponsesOk t

/-- From every state between two commands the machine goes on: no step faults, no step is refused. -/
def Obligations.EveryStepFromAConsistentStateGoesOn : Prop :=
  ∀ s : State, SessionOk s → ∃ t, step s = .next t

/-- 20_memory.md R41, 00_scope.md R9: a command gives exactly one response; it does not touch the capability inputs
or the ports, and the history only grows. That a wire format, as an item on the transport's side, gives no
response and no event is the model's choice (assumption log 6). -/
def Obligations.EveryCommandGivesOneResponse : Prop :=
  ∀ (i : Instr) (s t : State), exec i s = .next t →
    (isCommand i = true → ∃ p, t.responses = s.responses ++ [p]) ∧
    (isCommand i = false → t.responses = s.responses ∧ t.trace = s.trace) ∧
    SamePorts s t ∧ s.trace <+: t.trace

/-- 30_encoding.md R74, R75, 10_state.md R28, 60_exceptions.md R150, R153: each command that completes answers with
one response, in the shape of its own OK response or as one of the errors the table gives that command; a
message that RECV or REQRESP returns has 1 to 14 payload bytes, which its length byte counts. -/
def Obligations.EachCommandAnswersInItsOwnShape : Prop :=
  ∀ (i : Instr) (s t : State), isCommand i = true → exec i s = .next t →
    ∃ p, t.responses = s.responses ++ [p] ∧ (OkAnswer i p ∨ ErrorAnswer i p)

/-- 10_state.md R21, 60_exceptions.md R154: only START and STOP move FSM or touch the session, and from Idle, Active
or Closed they move it only along the table: START from Idle or Closed to Active or Closed, STOP from
Active to Closed. -/
def Obligations.OnlyStartAndStopMoveTheFsm : Prop :=
  ∀ (i : Instr) (s t : State), exec i s = .next t → ¬SameBlock s t →
    ((∃ flags bitrate target source, i = .start flags bitrate target source) ∧
      (s.fsm = .idle ∨ s.fsm = .closed) ∧ (t.fsm = .active ∨ t.fsm = .closed)) ∨
    (i = .stop ∧ s.fsm = .active ∧ t.fsm = .closed)

/-- 20_memory.md R43, R51: no step takes an event or a response out of the history, and time does not go
backwards. -/
def Obligations.HistoryOnlyGrows : Prop :=
  ∀ s t : State, step s = .next t →
    s.trace <+: t.trace ∧ s.responses <+: t.responses ∧ s.clock ≤ t.clock

/-- 20_memory.md R52: a command lasts at least as long as its waits together. -/
def Obligations.CommandsLastAtLeastAsLongAsTheirWaits : Prop :=
  ∀ (i : Instr) (s t : State), exec i s = .next t →
    s.clock + ((newEvents s t).map waitOf).sum ≤ t.clock

/-- 70_reset_and_hazards.md R196: the lower bounds on the duration of the commands, path by path. -/
def Obligations.LowerBoundsOnDurations : Prop :=
  (∀ (i : Instr) (s t : State), exec i s = .next t → s.clock ≤ t.clock) ∧
  (∀ (s t : State) flags bitrate target source, exec (.start flags bitrate target source) s = .next t →
    (∃ a r, Event.initBus .slow5Baud a r ∈ newEvents s t) → s.clock + 300 ≤ t.clock) ∧
  (∀ (s t : State) dest src payload, exec (.send dest src payload) s = .next t → s.fsm = .active →
    1 ≤ payload.length → payload.length ≤ 14 → s.clock + Config.msgGapMs.toNat ≤ t.clock) ∧
  (∀ (s t : State) timeout dest src payload, exec (.reqresp timeout dest src payload) s = .next t →
    s.fsm = .active → 1 ≤ payload.length → payload.length ≤ 14 →
    s.clock + Config.msgGapMs.toNat ≤ t.clock) ∧
  (∀ s t : State, exec .stop s = .next t → s.fsm = .active →
    s.clock + Config.msgGapMs.toNat ≤ t.clock ∧
    (Event.warn .stopNotAcknowledged ∈ newEvents s t →
      s.clock + Config.msgGapMs.toNat + 5000 ≤ t.clock)) ∧
  (∀ s t : State, exec .idle s = .next t → s.fsm = .active →
    s.clock + Config.msgGapMs.toNat ≤ t.clock)
end

