-- ==== Sys2Proof/Laws/Decode.lean ====
section
/-! SUPPORT. What decoding can answer, said once: the seven packet layouts, and the small facts about bytes
that the round trips rest on. -/

namespace Sys2Proof

open Sys2Proof.Machine

/-- The reserved `mode` bytes aside, the mode byte and the mode determine each other (30_encoding.md R73). -/
theorem parityModeOf_eq_some (mb : Byte) (m : ParityMode) : parityModeOf mb = some m ↔ mb = modeByte m := by
  cases m <;> revert mb <;> decide

theorem decodeParity_ok {ops : List Byte} {i : Instr} (h : decodeParity ops = .ok i) :
    ∃ v mb m, ops = [v, mb] ∧ parityModeOf mb = some m ∧ i = .parity v m := by
  unfold decodeParity at h
  split at h
  · rename_i v mb
    split at h <;> cases h
    exact ⟨v, mb, _, rfl, ‹_›, rfl⟩
  · cases h

theorem decodeStart_ok {ops : List Byte} {i : Instr} (h : decodeStart ops = .ok i) :
    ∃ f b3 b2 b1 b0 t s, ops = [f, b3, b2, b1, b0, t, s] ∧ i = .start f (fromBe32 b3 b2 b1 b0) t s := by
  unfold decodeStart at h
  split at h <;> cases h
  exact ⟨_, _, _, _, _, _, _, rfl, rfl⟩

theorem decodeStop_ok {ops : List Byte} {i : Instr} (h : decodeStop ops = .ok i) :
    ops = [] ∧ i = .stop := by
  unfold decodeStop at h
  split at h <;> cases h
  exact ⟨rfl, rfl⟩

theorem decodeIdle_ok {ops : List Byte} {i : Instr} (h : decodeIdle ops = .ok i) :
    ops = [] ∧ i = .idle := by
  unfold decodeIdle at h
  split at h <;> cases h
  exact ⟨rfl, rfl⟩

theorem decodeSend_ok {ops : List Byte} {i : Instr} (h : decodeSend ops = .ok i) :
    ∃ d s len p, ops = d :: s :: len :: p ∧ p.length = len.toNat ∧ i = .send d s p := by
  unfold decodeSend at h
  split at h
  · split at h <;> cases h
    exact ⟨_, _, _, _, rfl, ‹_›, rfl⟩
  · cases h

theorem decodeRecv_ok {ops : List Byte} {i : Instr} (h : decodeRecv ops = .ok i) :
    ∃ t1 t0, ops = [t1, t0] ∧ i = .recv (fromBe16 t1 t0) := by
  unfold decodeRecv at h
  split at h <;> cases h
  exact ⟨_, _, rfl, rfl⟩

theorem decodeReqresp_ok {ops : List Byte} {i : Instr} (h : decodeReqresp ops = .ok i) :
    ∃ t1 t0 d s len p, ops = t1 :: t0 :: d :: s :: len :: p ∧ p.length = len.toNat ∧
      i = .reqresp (fromBe16 t1 t0) d s p := by
  unfold decodeReqresp at h
  split at h
  · split at h <;> cases h
    exact ⟨_, _, _, _, _, _, rfl, ‹_›, rfl⟩
  · cases h

/-- A packet that decodes has one of the seven layouts (30_encoding.md R71). -/
theorem decodePacket_ok {bytes : List Byte} {i : Instr} (h : decodePacket bytes = .ok i) :
    (∃ v mb m, bytes = [0x01, v, mb] ∧ parityModeOf mb = some m ∧ i = .parity v m) ∨
    (∃ f b3 b2 b1 b0 t s, bytes = [0x10, f, b3, b2, b1, b0, t, s] ∧
      i = .start f (fromBe32 b3 b2 b1 b0) t s) ∨
    (bytes = [0x11] ∧ i = .stop) ∨
    (bytes = [0x12] ∧ i = .idle) ∨
    (∃ d s len p, bytes = 0x20 :: d :: s :: len :: p ∧ p.length = len.toNat ∧ i = .send d s p) ∨
    (∃ t1 t0, bytes = [0x21, t1, t0] ∧ i = .recv (fromBe16 t1 t0)) ∨
    (∃ t1 t0 d s len p, bytes = 0x22 :: t1 :: t0 :: d :: s :: len :: p ∧ p.length = len.toNat ∧
      i = .reqresp (fromBe16 t1 t0) d s p) := by
  unfold decodePacket at h
  split at h
  · cases h
  · rename_i op ops
    by_cases h1 : op = opPARITY
    · rw [if_pos h1] at h
      obtain ⟨v, mb, m, rfl, hm, rfl⟩ := decodeParity_ok h
      exact .inl ⟨v, mb, m, by rw [h1]; rfl, hm, rfl⟩
    rw [if_neg h1] at h
    by_cases h2 : op = opSTART
    · rw [if_pos h2] at h
      obtain ⟨f, b3, b2, b1, b0, t, s, rfl, rfl⟩ := decodeStart_ok h
      exact .inr (.inl ⟨f, b3, b2, b1, b0, t, s, by rw [h2]; rfl, rfl⟩)
    rw [if_neg h2] at h
    by_cases h3 : op = opSTOP
    · rw [if_pos h3] at h
      obtain ⟨rfl, rfl⟩ := decodeStop_ok h
      exact .inr (.inr (.inl ⟨by rw [h3]; rfl, rfl⟩))
    rw [if_neg h3] at h
    by_cases h4 : op = opIDLE
    · rw [if_pos h4] at h
      obtain ⟨rfl, rfl⟩ := decodeIdle_ok h
      exact .inr (.inr (.inr (.inl ⟨by rw [h4]; rfl, rfl⟩)))
    rw [if_neg h4] at h
    by_cases h5 : op = opSEND
    · rw [if_pos h5] at h
      obtain ⟨d, s, len, p, rfl, hl, rfl⟩ := decodeSend_ok h
      exact .inr (.inr (.inr (.inr (.inl ⟨d, s, len, p, by rw [h5]; rfl, hl, rfl⟩))))
    rw [if_neg h5] at h
    by_cases h6 : op = opRECV
    · rw [if_pos h6] at h
      obtain ⟨t1, t0, rfl, rfl⟩ := decodeRecv_ok h
      exact .inr (.inr (.inr (.inr (.inr (.inl ⟨t1, t0, by rw [h6]; rfl, rfl⟩)))))
    rw [if_neg h6] at h
    by_cases h7 : op = opREQRESP
    · rw [if_pos h7] at h
      obtain ⟨t1, t0, d, s, len, p, rfl, hl, rfl⟩ := decodeReqresp_ok h
      exact .inr (.inr (.inr (.inr (.inr (.inr
        ⟨t1, t0, d, s, len, p, by rw [h7]; rfl, hl, rfl⟩)))))
    rw [if_neg h7] at h
    cases h

theorem decodeAddress_ok {b : Byte} {i : Instr} (h : decodeAddress b = .ok i) :
    parityByte b .odd = b ∧ i = .initAddress (b.extractLsb' 0 7) := by
  unfold decodeAddress at h
  split at h
  · exact ⟨‹_›, (Decoded.ok.inj h).symm⟩
  · cases h

theorem decodeInitAnswer_ok {r : InitAnswer} {i : Instr} (h : decodeInitAnswer r = .ok i) :
    r = .ok 0xD3 0xB0 ∧ i = .initKeybytes := by
  cases r with
  | err e => cases h
  | ok kb1 kb2 =>
    by_cases hk : kb1 = kb1Exp ∧ kb2 = kb2Exp
    · rw [decodeInitAnswer, if_pos hk] at h
      exact ⟨by rw [hk.1, hk.2]; rfl, (Decoded.ok.inj h).symm⟩
    · rw [decodeInitAnswer, if_neg hk] at h
      cases h

/-- Bytes of one read that decode are a header, 1 to 14 payload bytes and a last byte (30_encoding.md R60). -/
theorem decodeLine_ok {bytes : List Byte} {i : Instr} (h : decodeLine bytes = .ok i) :
    ∃ len da sa payload ck, bytes = [len, da, sa] ++ payload ++ [ck] ∧ 1 ≤ payload.length ∧
      payload.length ≤ 14 ∧ i = classifyFrame len da sa payload ck := by
  unfold decodeLine at h
  split at h
  · rename_i len da sa body
    split at h
    · rename_i hb
      rcases List.eq_nil_or_concat body with rfl | ⟨payload, ck, rfl⟩
      · simp at hb
      · refine ⟨len, da, sa, payload, ck, by simp, ?_, ?_, ?_⟩
        · simp at hb; omega
        · simp at hb; omega
        · simpa using (Decoded.ok.inj h).symm
    · cases h
  · cases h

/-- Taking four bytes out of a word and putting them together again gives the word. -/
theorem fromBe32_be32 (v : Word32) : fromBe32 (v.extractLsb' 24 8) (v.extractLsb' 16 8)
    (v.extractLsb' 8 8) (v.extractLsb' 0 8) = v := by
  apply BitVec.eq_of_getLsbD_eq
  intro k hk
  simp only [fromBe32, BitVec.getLsbD_append, BitVec.getLsbD_extractLsb']
  interval_cases k <;> simp

theorem fromBe16_be16 (v : Timeout) : fromBe16 (v.extractLsb' 8 8) (v.extractLsb' 0 8) = v := by
  apply BitVec.eq_of_getLsbD_eq
  intro k hk
  simp only [fromBe16, BitVec.getLsbD_append, BitVec.getLsbD_extractLsb']
  interval_cases k <;> simp

/-- Putting four bytes together and taking them out again gives the bytes. -/
theorem be32_fromBe32 (b3 b2 b1 b0 : Byte) : be32 (fromBe32 b3 b2 b1 b0) = [b3, b2, b1, b0] := by
  simp only [be32, List.cons.injEq, and_true]
  refine ⟨?_, ?_, ?_, ?_⟩ <;> apply BitVec.eq_of_getLsbD_eq <;> intro k hk <;>
    simp only [fromBe32, BitVec.getLsbD_append, BitVec.getLsbD_extractLsb'] <;>
    interval_cases k <;> simp

theorem be16_fromBe16 (b1 b0 : Byte) : be16 (fromBe16 b1 b0) = [b1, b0] := by
  simp only [be16, List.cons.injEq, and_true]
  refine ⟨?_, ?_⟩ <;> apply BitVec.eq_of_getLsbD_eq <;> intro k hk <;>
    simp only [fromBe16, BitVec.getLsbD_append, BitVec.getLsbD_extractLsb'] <;>
    interval_cases k <;> simp

/-- At most 18 bytes are one read as they are. -/
theorem rxImageOf_bytes (bytes : List Byte) (h : bytes.length ≤ 18) :
    (rxImageOf bytes).bytes = bytes := List.take_of_length_le h

/-- The parity of a byte that already carries its parity (40_parity.md R92). -/
theorem parityByte_idem (v : Byte) (m : ParityMode) :
    parityByte (parityByte v m) m = parityByte v m := by
  cases m <;> revert v <;> decide

end Sys2Proof
end

