-- ==== Sys2Proof/Laws/State.lean ====
section
/-! SUPPORT. One lemma per field per update of State, so that no later proof unfolds a record update. -/

namespace Sys2Proof.Machine

variable (s : State)

/-! `State.performAs`. -/

@[simp] theorem State.performAs_fsm (f : Fsm) (e : Event) : (s.performAs f e).fsm = s.fsm := rfl
@[simp] theorem State.performAs_sess (f : Fsm) (e : Event) : (s.performAs f e).sess = s.sess := rfl
@[simp] theorem State.performAs_capFullInit (f : Fsm) (e : Event) :
    (s.performAs f e).capFullInit = s.capFullInit := rfl
@[simp] theorem State.performAs_capCksum (f : Fsm) (e : Event) :
    (s.performAs f e).capCksum = s.capCksum := rfl
@[simp] theorem State.performAs_inbox (f : Fsm) (e : Event) : (s.performAs f e).inbox = s.inbox := rfl
@[simp] theorem State.performAs_line (f : Fsm) (e : Event) :
    (s.performAs f e).line = e.lineAfter s.line := rfl
@[simp] theorem State.performAs_rx (f : Fsm) (e : Event) : (s.performAs f e).rx = e.rxAfter s.rx := rfl
@[simp] theorem State.performAs_initAnswers (f : Fsm) (e : Event) :
    (s.performAs f e).initAnswers = e.initAnswersAfter s.initAnswers := rfl
@[simp] theorem State.performAs_sendAnswers (f : Fsm) (e : Event) :
    (s.performAs f e).sendAnswers = e.sendAnswersAfter s.sendAnswers := rfl
@[simp] theorem State.performAs_clock (f : Fsm) (e : Event) :
    (s.performAs f e).clock = s.clock + e.elapsed s.nextDelay := rfl
@[simp] theorem State.performAs_delays (f : Fsm) (e : Event) :
    (s.performAs f e).delays = if e.takesTime then s.delays.tail else s.delays := rfl
@[simp] theorem State.performAs_draws (f : Fsm) (e : Event) :
    (s.performAs f e).draws = s.draws + 1 := rfl
@[simp] theorem State.performAs_trace (f : Fsm) (e : Event) :
    (s.performAs f e).trace = s.trace ++ [⟨f, e, s.clock + e.elapsed s.nextDelay⟩] := rfl
@[simp] theorem State.performAs_responses (f : Fsm) (e : Event) :
    (s.performAs f e).responses = s.responses := rfl

/-! `State.perform`. -/

@[simp] theorem State.perform_fsm (e : Event) : (s.perform e).fsm = s.fsm := rfl
@[simp] theorem State.perform_sess (e : Event) : (s.perform e).sess = s.sess := rfl
@[simp] theorem State.perform_capFullInit (e : Event) :
    (s.perform e).capFullInit = s.capFullInit := rfl
@[simp] theorem State.perform_capCksum (e : Event) : (s.perform e).capCksum = s.capCksum := rfl
@[simp] theorem State.perform_inbox (e : Event) : (s.perform e).inbox = s.inbox := rfl
@[simp] theorem State.perform_line (e : Event) : (s.perform e).line = e.lineAfter s.line := rfl
@[simp] theorem State.perform_rx (e : Event) : (s.perform e).rx = e.rxAfter s.rx := rfl
@[simp] theorem State.perform_initAnswers (e : Event) :
    (s.perform e).initAnswers = e.initAnswersAfter s.initAnswers := rfl
@[simp] theorem State.perform_sendAnswers (e : Event) :
    (s.perform e).sendAnswers = e.sendAnswersAfter s.sendAnswers := rfl
@[simp] theorem State.perform_clock (e : Event) :
    (s.perform e).clock = s.clock + e.elapsed s.nextDelay := rfl
@[simp] theorem State.perform_delays (e : Event) :
    (s.perform e).delays = if e.takesTime then s.delays.tail else s.delays := rfl
@[simp] theorem State.perform_draws (e : Event) : (s.perform e).draws = s.draws + 1 := rfl
@[simp] theorem State.perform_trace (e : Event) :
    (s.perform e).trace = s.trace ++ [⟨s.fsm, e, s.clock + e.elapsed s.nextDelay⟩] := rfl
@[simp] theorem State.perform_responses (e : Event) : (s.perform e).responses = s.responses := rfl

/-! `State.passTime`. -/

@[simp] theorem State.passTime_fsm : s.passTime.fsm = s.fsm := rfl
@[simp] theorem State.passTime_sess : s.passTime.sess = s.sess := rfl
@[simp] theorem State.passTime_capFullInit : s.passTime.capFullInit = s.capFullInit := rfl
@[simp] theorem State.passTime_capCksum : s.passTime.capCksum = s.capCksum := rfl
@[simp] theorem State.passTime_inbox : s.passTime.inbox = s.inbox := rfl
@[simp] theorem State.passTime_line : s.passTime.line = s.line := rfl
@[simp] theorem State.passTime_rx : s.passTime.rx = s.rx := rfl
@[simp] theorem State.passTime_initAnswers : s.passTime.initAnswers = s.initAnswers := rfl
@[simp] theorem State.passTime_sendAnswers : s.passTime.sendAnswers = s.sendAnswers := rfl
@[simp] theorem State.passTime_clock : s.passTime.clock = s.clock + s.nextDelay := rfl
@[simp] theorem State.passTime_delays : s.passTime.delays = s.delays.tail := rfl
@[simp] theorem State.passTime_draws : s.passTime.draws = s.draws + 1 := rfl
@[simp] theorem State.passTime_trace : s.passTime.trace = s.trace := rfl
@[simp] theorem State.passTime_responses : s.passTime.responses = s.responses := rfl

/-! `State.fetched`. -/

@[simp] theorem State.fetched_fsm (rest : List PortInput) : (s.fetched rest).fsm = s.fsm := rfl
@[simp] theorem State.fetched_sess (rest : List PortInput) : (s.fetched rest).sess = s.sess := rfl
@[simp] theorem State.fetched_capFullInit (rest : List PortInput) :
    (s.fetched rest).capFullInit = s.capFullInit := rfl
@[simp] theorem State.fetched_capCksum (rest : List PortInput) :
    (s.fetched rest).capCksum = s.capCksum := rfl
@[simp] theorem State.fetched_inbox (rest : List PortInput) : (s.fetched rest).inbox = rest := rfl
@[simp] theorem State.fetched_line (rest : List PortInput) : (s.fetched rest).line = s.line := rfl
@[simp] theorem State.fetched_rx (rest : List PortInput) : (s.fetched rest).rx = s.rx := rfl
@[simp] theorem State.fetched_initAnswers (rest : List PortInput) :
    (s.fetched rest).initAnswers = s.initAnswers := rfl
@[simp] theorem State.fetched_sendAnswers (rest : List PortInput) :
    (s.fetched rest).sendAnswers = s.sendAnswers := rfl
@[simp] theorem State.fetched_clock (rest : List PortInput) :
    (s.fetched rest).clock = s.clock + s.nextDelay := rfl
@[simp] theorem State.fetched_delays (rest : List PortInput) :
    (s.fetched rest).delays = s.delays.tail := rfl
@[simp] theorem State.fetched_draws (rest : List PortInput) :
    (s.fetched rest).draws = s.draws + 1 := rfl
@[simp] theorem State.fetched_trace (rest : List PortInput) : (s.fetched rest).trace = s.trace := rfl
@[simp] theorem State.fetched_responses (rest : List PortInput) :
    (s.fetched rest).responses = s.responses := rfl

/-! `State.setFsm`. -/

@[simp] theorem State.setFsm_fsm (f : Fsm) : (s.setFsm f).fsm = f := rfl
@[simp] theorem State.setFsm_sess (f : Fsm) : (s.setFsm f).sess = s.sess := rfl
@[simp] theorem State.setFsm_capFullInit (f : Fsm) : (s.setFsm f).capFullInit = s.capFullInit := rfl
@[simp] theorem State.setFsm_capCksum (f : Fsm) : (s.setFsm f).capCksum = s.capCksum := rfl
@[simp] theorem State.setFsm_inbox (f : Fsm) : (s.setFsm f).inbox = s.inbox := rfl
@[simp] theorem State.setFsm_line (f : Fsm) : (s.setFsm f).line = s.line := rfl
@[simp] theorem State.setFsm_rx (f : Fsm) : (s.setFsm f).rx = s.rx := rfl
@[simp] theorem State.setFsm_initAnswers (f : Fsm) : (s.setFsm f).initAnswers = s.initAnswers := rfl
@[simp] theorem State.setFsm_sendAnswers (f : Fsm) : (s.setFsm f).sendAnswers = s.sendAnswers := rfl
@[simp] theorem State.setFsm_clock (f : Fsm) : (s.setFsm f).clock = s.clock := rfl
@[simp] theorem State.setFsm_delays (f : Fsm) : (s.setFsm f).delays = s.delays := rfl
@[simp] theorem State.setFsm_draws (f : Fsm) : (s.setFsm f).draws = s.draws := rfl
@[simp] theorem State.setFsm_trace (f : Fsm) : (s.setFsm f).trace = s.trace := rfl
@[simp] theorem State.setFsm_responses (f : Fsm) : (s.setFsm f).responses = s.responses := rfl

/-! `State.setSession`. -/

@[simp] theorem State.setSession_fsm (ss : Session) : (s.setSession ss).fsm = s.fsm := rfl
@[simp] theorem State.setSession_sess (ss : Session) : (s.setSession ss).sess = some ss := rfl
@[simp] theorem State.setSession_capFullInit (ss : Session) :
    (s.setSession ss).capFullInit = s.capFullInit := rfl
@[simp] theorem State.setSession_capCksum (ss : Session) :
    (s.setSession ss).capCksum = s.capCksum := rfl
@[simp] theorem State.setSession_inbox (ss : Session) : (s.setSession ss).inbox = s.inbox := rfl
@[simp] theorem State.setSession_line (ss : Session) : (s.setSession ss).line = s.line := rfl
@[simp] theorem State.setSession_rx (ss : Session) : (s.setSession ss).rx = s.rx := rfl
@[simp] theorem State.setSession_initAnswers (ss : Session) :
    (s.setSession ss).initAnswers = s.initAnswers := rfl
@[simp] theorem State.setSession_sendAnswers (ss : Session) :
    (s.setSession ss).sendAnswers = s.sendAnswers := rfl
@[simp] theorem State.setSession_clock (ss : Session) : (s.setSession ss).clock = s.clock := rfl
@[simp] theorem State.setSession_delays (ss : Session) : (s.setSession ss).delays = s.delays := rfl
@[simp] theorem State.setSession_draws (ss : Session) : (s.setSession ss).draws = s.draws := rfl
@[simp] theorem State.setSession_trace (ss : Session) : (s.setSession ss).trace = s.trace := rfl
@[simp] theorem State.setSession_responses (ss : Session) :
    (s.setSession ss).responses = s.responses := rfl

/-! `State.release`. -/

@[simp] theorem State.release_fsm : s.release.fsm = .closed := rfl
@[simp] theorem State.release_sess : s.release.sess = none := rfl
@[simp] theorem State.release_capFullInit : s.release.capFullInit = s.capFullInit := rfl
@[simp] theorem State.release_capCksum : s.release.capCksum = s.capCksum := rfl
@[simp] theorem State.release_inbox : s.release.inbox = s.inbox := rfl
@[simp] theorem State.release_line : s.release.line = s.line := rfl
@[simp] theorem State.release_rx : s.release.rx = s.rx := rfl
@[simp] theorem State.release_initAnswers : s.release.initAnswers = s.initAnswers := rfl
@[simp] theorem State.release_sendAnswers : s.release.sendAnswers = s.sendAnswers := rfl
@[simp] theorem State.release_clock : s.release.clock = s.clock := rfl
@[simp] theorem State.release_delays : s.release.delays = s.delays := rfl
@[simp] theorem State.release_draws : s.release.draws = s.draws := rfl
@[simp] theorem State.release_trace : s.release.trace = s.trace := rfl
@[simp] theorem State.release_responses : s.release.responses = s.responses := rfl

/-! `State.resetBlock`. -/

@[simp] theorem State.resetBlock_fsm : s.resetBlock.fsm = .idle := rfl
@[simp] theorem State.resetBlock_sess : s.resetBlock.sess = none := rfl
@[simp] theorem State.resetBlock_capFullInit : s.resetBlock.capFullInit = s.capFullInit := rfl
@[simp] theorem State.resetBlock_capCksum : s.resetBlock.capCksum = s.capCksum := rfl
@[simp] theorem State.resetBlock_inbox : s.resetBlock.inbox = s.inbox := rfl
@[simp] theorem State.resetBlock_line : s.resetBlock.line = s.line := rfl
@[simp] theorem State.resetBlock_rx : s.resetBlock.rx = s.rx := rfl
@[simp] theorem State.resetBlock_initAnswers : s.resetBlock.initAnswers = s.initAnswers := rfl
@[simp] theorem State.resetBlock_sendAnswers : s.resetBlock.sendAnswers = s.sendAnswers := rfl
@[simp] theorem State.resetBlock_clock : s.resetBlock.clock = s.clock := rfl
@[simp] theorem State.resetBlock_delays : s.resetBlock.delays = s.delays := rfl
@[simp] theorem State.resetBlock_draws : s.resetBlock.draws = s.draws := rfl
@[simp] theorem State.resetBlock_trace : s.resetBlock.trace = s.trace := rfl
@[simp] theorem State.resetBlock_responses : s.resetBlock.responses = s.responses := rfl

/-! `State.respond`. -/

@[simp] theorem State.respond_fsm (packet : List Byte) : (s.respond packet).fsm = s.fsm := rfl
@[simp] theorem State.respond_sess (packet : List Byte) : (s.respond packet).sess = s.sess := rfl
@[simp] theorem State.respond_capFullInit (packet : List Byte) :
    (s.respond packet).capFullInit = s.capFullInit := rfl
@[simp] theorem State.respond_capCksum (packet : List Byte) :
    (s.respond packet).capCksum = s.capCksum := rfl
@[simp] theorem State.respond_inbox (packet : List Byte) : (s.respond packet).inbox = s.inbox := rfl
@[simp] theorem State.respond_line (packet : List Byte) : (s.respond packet).line = s.line := rfl
@[simp] theorem State.respond_rx (packet : List Byte) : (s.respond packet).rx = s.rx := rfl
@[simp] theorem State.respond_initAnswers (packet : List Byte) :
    (s.respond packet).initAnswers = s.initAnswers := rfl
@[simp] theorem State.respond_sendAnswers (packet : List Byte) :
    (s.respond packet).sendAnswers = s.sendAnswers := rfl
@[simp] theorem State.respond_clock (packet : List Byte) : (s.respond packet).clock = s.clock := rfl
@[simp] theorem State.respond_delays (packet : List Byte) : (s.respond packet).delays = s.delays := rfl
@[simp] theorem State.respond_draws (packet : List Byte) : (s.respond packet).draws = s.draws := rfl
@[simp] theorem State.respond_trace (packet : List Byte) : (s.respond packet).trace = s.trace := rfl
@[simp] theorem State.respond_responses (packet : List Byte) :
    (s.respond packet).responses = s.responses ++ [packet] := rfl

/-! `State.raise`. -/

@[simp] theorem State.raise_fsm (k : CmdError) : (s.raise k).fsm = s.fsm := rfl
@[simp] theorem State.raise_sess (k : CmdError) : (s.raise k).sess = s.sess := rfl
@[simp] theorem State.raise_capFullInit (k : CmdError) : (s.raise k).capFullInit = s.capFullInit := rfl
@[simp] theorem State.raise_capCksum (k : CmdError) : (s.raise k).capCksum = s.capCksum := rfl
@[simp] theorem State.raise_inbox (k : CmdError) : (s.raise k).inbox = s.inbox := rfl
@[simp] theorem State.raise_line (k : CmdError) : (s.raise k).line = s.line := rfl
@[simp] theorem State.raise_rx (k : CmdError) : (s.raise k).rx = s.rx := rfl
@[simp] theorem State.raise_initAnswers (k : CmdError) : (s.raise k).initAnswers = s.initAnswers := rfl
@[simp] theorem State.raise_sendAnswers (k : CmdError) : (s.raise k).sendAnswers = s.sendAnswers := rfl
@[simp] theorem State.raise_clock (k : CmdError) : (s.raise k).clock = s.clock := rfl
@[simp] theorem State.raise_delays (k : CmdError) : (s.raise k).delays = s.delays := rfl
@[simp] theorem State.raise_draws (k : CmdError) : (s.raise k).draws = s.draws := rfl
@[simp] theorem State.raise_trace (k : CmdError) : (s.raise k).trace = s.trace := rfl
@[simp] theorem State.raise_responses (k : CmdError) :
    (s.raise k).responses = s.responses ++ [errorPacket k] := rfl

/-! `State.arrive`. -/

@[simp] theorem State.arrive_fsm (x : RxImage) : (s.arrive x).fsm = s.fsm := rfl
@[simp] theorem State.arrive_sess (x : RxImage) : (s.arrive x).sess = s.sess := rfl
@[simp] theorem State.arrive_capFullInit (x : RxImage) :
    (s.arrive x).capFullInit = s.capFullInit := rfl
@[simp] theorem State.arrive_capCksum (x : RxImage) : (s.arrive x).capCksum = s.capCksum := rfl
@[simp] theorem State.arrive_inbox (x : RxImage) : (s.arrive x).inbox = s.inbox := rfl
@[simp] theorem State.arrive_line (x : RxImage) : (s.arrive x).line = s.line := rfl
@[simp] theorem State.arrive_rx (x : RxImage) : (s.arrive x).rx = s.rx ++ [.ok x] := rfl
@[simp] theorem State.arrive_initAnswers (x : RxImage) :
    (s.arrive x).initAnswers = s.initAnswers := rfl
@[simp] theorem State.arrive_sendAnswers (x : RxImage) :
    (s.arrive x).sendAnswers = s.sendAnswers := rfl
@[simp] theorem State.arrive_clock (x : RxImage) : (s.arrive x).clock = s.clock := rfl
@[simp] theorem State.arrive_delays (x : RxImage) : (s.arrive x).delays = s.delays := rfl
@[simp] theorem State.arrive_draws (x : RxImage) : (s.arrive x).draws = s.draws := rfl
@[simp] theorem State.arrive_trace (x : RxImage) : (s.arrive x).trace = s.trace := rfl
@[simp] theorem State.arrive_responses (x : RxImage) : (s.arrive x).responses = s.responses := rfl

/-! `State.settleInit`. -/

@[simp] theorem State.settleInit_fsm (r : InitAnswer) : (s.settleInit r).fsm = s.fsm := rfl
@[simp] theorem State.settleInit_sess (r : InitAnswer) : (s.settleInit r).sess = s.sess := rfl
@[simp] theorem State.settleInit_capFullInit (r : InitAnswer) :
    (s.settleInit r).capFullInit = s.capFullInit := rfl
@[simp] theorem State.settleInit_capCksum (r : InitAnswer) :
    (s.settleInit r).capCksum = s.capCksum := rfl
@[simp] theorem State.settleInit_inbox (r : InitAnswer) : (s.settleInit r).inbox = s.inbox := rfl
@[simp] theorem State.settleInit_line (r : InitAnswer) : (s.settleInit r).line = s.line := rfl
@[simp] theorem State.settleInit_rx (r : InitAnswer) : (s.settleInit r).rx = s.rx := rfl
@[simp] theorem State.settleInit_initAnswers (r : InitAnswer) :
    (s.settleInit r).initAnswers = s.initAnswers ++ [r] := rfl
@[simp] theorem State.settleInit_sendAnswers (r : InitAnswer) :
    (s.settleInit r).sendAnswers = s.sendAnswers := rfl
@[simp] theorem State.settleInit_clock (r : InitAnswer) : (s.settleInit r).clock = s.clock := rfl
@[simp] theorem State.settleInit_delays (r : InitAnswer) : (s.settleInit r).delays = s.delays := rfl
@[simp] theorem State.settleInit_draws (r : InitAnswer) : (s.settleInit r).draws = s.draws := rfl
@[simp] theorem State.settleInit_trace (r : InitAnswer) : (s.settleInit r).trace = s.trace := rfl
@[simp] theorem State.settleInit_responses (r : InitAnswer) :
    (s.settleInit r).responses = s.responses := rfl

end Sys2Proof.Machine
end

