-- ==== Sys2Proof/Laws/Ops.lean ====
section
/-! SUPPORT. What the shared operations can do, said once: an event extends the history and lets time
pass; a run of events leaves the block's registers, the capability inputs, the ports and the responses
alone; replaying a run of events gives the same run. -/

namespace Sys2Proof.Machine

/-- A run of events, one after another (20_memory.md R51). -/
def performAll (es : List Event) (s : State) : State := es.foldl (fun s e => s.perform e) s

@[simp] theorem performAll_nil (s : State) : performAll [] s = s := rfl

@[simp] theorem performAll_cons (e : Event) (es : List Event) (s : State) :
    performAll (e :: es) s = performAll es (s.perform e) := rfl

theorem performAll_append (es fs : List Event) (s : State) :
    performAll (es ++ fs) s = performAll fs (performAll es s) := by
  simp [performAll, List.foldl_append]

@[simp] theorem State.performAs_events (f : Fsm) (e : Event) (s : State) :
    (s.performAs f e).events = s.events ++ [e] := by simp [State.events]

@[simp] theorem State.perform_events (e : Event) (s : State) :
    (s.perform e).events = s.events ++ [e] := by simp [State.events]

@[simp] theorem State.respond_events (p : List Byte) (s : State) :
    (s.respond p).events = s.events := rfl

@[simp] theorem State.raise_events (k : CmdError) (s : State) : (s.raise k).events = s.events := rfl

@[simp] theorem State.release_events (s : State) : s.release.events = s.events := rfl

@[simp] theorem State.setFsm_events (f : Fsm) (s : State) : (s.setFsm f).events = s.events := rfl

@[simp] theorem State.setSession_events (ss : Session) (s : State) :
    (s.setSession ss).events = s.events := rfl

@[simp] theorem State.fetched_events (rest : List PortInput) (s : State) :
    (s.fetched rest).events = s.events := rfl

section
variable (es : List Event) (s : State)

@[simp] theorem performAll_fsm : (performAll es s).fsm = s.fsm := by
  induction es generalizing s with
  | nil => rfl
  | cons e es ih => simp [ih]

@[simp] theorem performAll_sess : (performAll es s).sess = s.sess := by
  induction es generalizing s with
  | nil => rfl
  | cons e es ih => simp [ih]

@[simp] theorem performAll_capFullInit : (performAll es s).capFullInit = s.capFullInit := by
  induction es generalizing s with
  | nil => rfl
  | cons e es ih => simp [ih]

@[simp] theorem performAll_capCksum : (performAll es s).capCksum = s.capCksum := by
  induction es generalizing s with
  | nil => rfl
  | cons e es ih => simp [ih]

@[simp] theorem performAll_inbox : (performAll es s).inbox = s.inbox := by
  induction es generalizing s with
  | nil => rfl
  | cons e es ih => simp [ih]

@[simp] theorem performAll_responses : (performAll es s).responses = s.responses := by
  induction es generalizing s with
  | nil => rfl
  | cons e es ih => simp [ih]

@[simp] theorem performAll_events : (performAll es s).events = s.events ++ es := by
  induction es generalizing s with
  | nil => simp
  | cons e es ih => simp [ih]

theorem performAll_clock_le : s.clock ≤ (performAll es s).clock := by
  induction es generalizing s with
  | nil => exact le_rfl
  | cons e es ih => exact le_trans (by simp) (ih (s.perform e))

/-- A run of events extends the history by its own events, each in the FSM state of the run. -/
theorem performAll_trace : ∃ new, (performAll es s).trace = s.trace ++ new ∧
    new.map (·.event) = es ∧ ∀ entry ∈ new, entry.fsm = s.fsm := by
  induction es generalizing s with
  | nil => exact ⟨[], by simp⟩
  | cons e es ih =>
    obtain ⟨new, hnew, hmap, hfsm⟩ := ih (s.perform e)
    refine ⟨⟨s.fsm, e, s.clock + e.elapsed s.nextDelay⟩ :: new, ?_, ?_, ?_⟩
    · simp [hnew]
    · simp [hmap]
    · simpa using hfsm

end

/-- Every reading of the time base in a run of events gives the time at that point (20_memory.md R43). -/
def Honest : List Event → State → Prop
  | [], _ => True
  | e :: es, s => (∀ t, e = .now t → t = s.timeNow) ∧ Honest es (s.perform e)

@[simp] theorem Honest_nil (s : State) : Honest [] s := trivial

@[simp] theorem Honest_cons (e : Event) (es : List Event) (s : State) :
    Honest (e :: es) s ↔ (∀ t, e = .now t → t = s.timeNow) ∧ Honest es (s.perform e) := Iff.rfl

theorem Honest_append (es fs : List Event) (s : State) :
    Honest (es ++ fs) s ↔ Honest es s ∧ Honest fs (performAll es s) := by
  induction es generalizing s with
  | nil => simp
  | cons e es ih => simp [ih, and_assoc]

/-- An event takes at least what it waits (20_memory.md R52). -/
theorem Event.waitOf_le_elapsed (e : Event) (extra : Nat) : waitOf e ≤ e.elapsed extra := by
  cases e <;> simp [waitOf, Event.elapsed] <;> split <;> omega

/-- One event keeps the history in the order of time. -/
theorem perform_TimeOk (e : Event) (s : State) (h : TimeOk s) (he : ∀ t, e = .now t → t = s.timeNow) :
    TimeOk (s.perform e) := by
  obtain ⟨hp, hd, hn⟩ := h
  refine ⟨?_, ?_, ?_⟩
  · simp only [State.perform_trace, List.pairwise_append, List.pairwise_singleton, List.mem_singleton,
      forall_eq, true_and]
    exact ⟨hp, fun a ha => Nat.add_le_add (hd a ha) (e.waitOf_le_elapsed _)⟩
  · intro a ha
    rcases List.mem_append.1 ha with ha | ha
    · exact le_trans (hd a ha) (Nat.le_add_right _ _)
    · rw [List.mem_singleton.1 ha]; exact le_rfl
  · intro a ha t ht
    rcases List.mem_append.1 ha with ha | ha
    · exact hn a ha t ht
    · rw [List.mem_singleton.1 ha] at ht ⊢
      have ht' : e = .now t := ht
      subst ht'
      simpa [Event.elapsed, State.timeNow] using he t rfl

/-- A run of events keeps the history in the order of time. -/
theorem performAll_TimeOk (es : List Event) (s : State) (h : TimeOk s) (he : Honest es s) :
    TimeOk (performAll es s) := by
  induction es generalizing s with
  | nil => exact h
  | cons e es ih => exact ih _ (perform_TimeOk e s h he.1) he.2

/-- A run of events lasts at least as long as its waits together (20_memory.md R52). -/
theorem performAll_waits (es : List Event) (s : State) :
    s.clock + (es.map waitOf).sum ≤ (performAll es s).clock := by
  induction es generalizing s with
  | nil => simp
  | cons e es ih =>
    have h := ih (s.perform e)
    have he := e.waitOf_le_elapsed s.nextDelay
    simp only [List.map_cons, List.sum_cons, performAll_cons, State.perform_clock] at h ⊢
    omega

@[simp] theorem State.replay_nil (s : State) : s.replay [] = s := rfl

@[simp] theorem State.replay_cons (entry : TraceEntry) (new : List TraceEntry) (s : State) :
    s.replay (entry :: new) = (s.performAs entry.fsm entry.event).replay new := rfl

/-- Replaying never touches the block, the capability inputs, the ports or the responses. -/
theorem State.replay_frame (new : List TraceEntry) (s : State) :
    (s.replay new).fsm = s.fsm ∧ (s.replay new).sess = s.sess ∧
    (s.replay new).capFullInit = s.capFullInit ∧ (s.replay new).capCksum = s.capCksum ∧
    (s.replay new).inbox = s.inbox ∧ (s.replay new).responses = s.responses := by
  induction new generalizing s with
  | nil => simp
  | cons entry new ih => simpa using ih (s.performAs entry.fsm entry.event)

theorem State.replay_append (new more : List TraceEntry) (s : State) :
    s.replay (new ++ more) = (s.replay new).replay more := List.foldl_append

/-- The line, the input and the settled answers after a replay are folds over its events. -/
theorem State.replay_transport (new : List TraceEntry) (s : State) :
    (s.replay new).line = new.foldl (fun line entry => entry.event.lineAfter line) s.line ∧
    (s.replay new).rx = new.foldl (fun rx entry => entry.event.rxAfter rx) s.rx ∧
    (s.replay new).initAnswers =
      new.foldl (fun rs entry => entry.event.initAnswersAfter rs) s.initAnswers ∧
    (s.replay new).sendAnswers =
      new.foldl (fun rs entry => entry.event.sendAnswersAfter rs) s.sendAnswers := by
  induction new generalizing s with
  | nil => exact ⟨rfl, rfl, rfl, rfl⟩
  | cons entry new ih => exact ih (s.performAs entry.fsm entry.event)

/-- The last event of a replay is completed at the clock after it. -/
theorem State.replay_clock (new : List TraceEntry) (s : State) (start : Nat) (h : new ≠ []) :
    ((s.replay new).trace.map (·.done)).getLastD start = (s.replay new).clock := by
  obtain ⟨init, last, rfl⟩ := List.eq_nil_or_concat new |>.resolve_left h
  simp [State.replay_append, List.getLastD_eq_getLast?]

/-- Two states that agree in all that events read and write. -/
def SameWorld (s t : State) : Prop :=
  t.line = s.line ∧ t.rx = s.rx ∧ t.initAnswers = s.initAnswers ∧ t.sendAnswers = s.sendAnswers ∧
    t.clock = s.clock ∧ t.delays = s.delays ∧ t.draws = s.draws ∧ t.trace = s.trace

theorem SameWorld.performAs {s t : State} (h : SameWorld s t) (f : Fsm) (e : Event) :
    SameWorld (s.performAs f e) (t.performAs f e) := by
  obtain ⟨h1, h2, h3, h4, h5, h6, h7, h8⟩ := h
  simp [SameWorld, State.nextDelay, h1, h2, h3, h4, h5, h6, h7, h8]

/-- Replaying the first events of a run gives their part of its history; replaying all of them gives the
world it leaves. -/
theorem performAll_replay (es : List Event) (s t : State) (h : SameWorld s t) (new : List TraceEntry)
    (hnew : (performAll es s).trace = s.trace ++ new) (k : Nat) :
    (t.replay (new.take k)).trace = s.trace ++ new.take k ∧
    (new.length ≤ k → SameWorld (performAll es s) (t.replay (new.take k))) := by
  induction es generalizing s t new k with
  | nil =>
    obtain rfl : new = [] := by simpa using hnew
    simpa using ⟨h.2.2.2.2.2.2.2, h⟩
  | cons e es ih =>
    obtain ⟨more, hmore, -⟩ := performAll_trace es (s.perform e)
    obtain rfl : new = ⟨s.fsm, e, s.clock + e.elapsed s.nextDelay⟩ :: more := by
      rw [performAll_cons, hmore] at hnew
      simpa using hnew.symm
    cases k with
    | zero => simpa using h.2.2.2.2.2.2.2
    | succ k =>
      obtain ⟨htrace, hworld⟩ := ih (s.perform e) _ (h.performAs s.fsm e) more hmore k
      exact ⟨by simpa using htrace, fun hk => hworld (by simpa using hk)⟩

end Sys2Proof.Machine
end

