-- ==== Sys2Proof/Laws/Exchange.lean ====
section
/-! SUPPORT. Everything the internal procedures and the handshake can do, as runs of events: provers cite
these instead of unfolding the procedures. -/

namespace Sys2Proof.Machine

@[simp] theorem legalLength_iff (L : Nat) : legalLength L = true ↔ 1 ≤ L ∧ L ≤ 14 := by
  change (decide (1 ≤ L) && decide (L ≤ 14)) = true ↔ _
  simp

/-- The wait and the `T.send` of one frame (42_framer.md R122). -/
def sendEvents (tx : List Byte) (r : SendAnswer) : List Event :=
  [.wait Config.msgGapMs.toNat, .send tx Config.byteGapMs r]

/-- The answer `T.send` gives after the wait before a frame. -/
def answerToSend (s : State) : SendAnswer := (s.perform (.wait Config.msgGapMs.toNat)).sendAnswer

/-- A settled answer is the one `T.send` gives. -/
theorem answerToSend_of_head (s : State) (r : SendAnswer) (h : s.sendAnswers.head? = some r) :
    answerToSend s = r := by
  cases hs : s.sendAnswers <;>
    simp_all [answerToSend, State.sendAnswer, Event.sendAnswersAfter]

theorem transmit_ok (tx : List Byte) (s : State) (h : answerToSend s = .ok) :
    transmit tx s = (.ok (), performAll (sendEvents tx .ok) s) := by
  simp only [answerToSend] at h
  simp [transmit, h, sendEvents]

theorem transmit_err (tx : List Byte) (s : State) (e : TErr) (h : answerToSend s = .err e) :
    transmit tx s = (.error (.transportError e), performAll (sendEvents tx (.err e)) s) := by
  simp only [answerToSend] at h
  simp [transmit, h, sendEvents]

/-- FramerSend with a payload of a wrong length does nothing (42_framer.md R121). -/
theorem framerSend_badLength (ss : Session) (m : OutMessage) (s : State)
    (h : ¬(1 ≤ m.payload.length ∧ m.payload.length ≤ 14)) :
    framerSend ss m s = (.error .badLength, s) := by
  rw [framerSend, if_neg (by simpa using h)]

/-- FramerSend with a legal payload is the transmission of its frame (42_framer.md R122). -/
theorem framerSend_legal (ss : Session) (m : OutMessage) (s : State)
    (h : 1 ≤ m.payload.length ∧ m.payload.length ≤ 14) :
    framerSend ss m s = transmit (encodeFrame m ss) s := by
  rw [framerSend, if_pos (by simpa using h)]

theorem State.recvAnswer_of_head (s : State) (r : RecvAnswer) (h : s.rx.head? = some r) :
    s.recvAnswer = r := by
  cases hs : s.rx <;> simp_all [State.recvAnswer]

/-- FramerReceive when the transport fails (42_framer.md R125). -/
theorem framerReceive_err (tmo : Nat) (s : State) (e : TErr) (h : s.recvAnswer = .err e) :
    framerReceive tmo s =
      (.error (.transportError e), performAll [.receive 18 (tmo + 100) (.err e)] s) := by
  simp [framerReceive, h, rxBuf, tRxSlackMs]

/-- FramerReceive of fewer than 5 bytes (42_framer.md R126). -/
theorem framerReceive_short (tmo : Nat) (s : State) (rx : RxImage) (h : s.recvAnswer = .ok rx)
    (hn : rx.bytes.length < 5) :
    framerReceive tmo s = (.error .badLength, performAll [.receive 18 (tmo + 100) (.ok rx)] s) := by
  simp [framerReceive, h, acceptFrame, hn, rxBuf, tRxSlackMs, ovh, lMin]

/-- The message of a received frame, with the time at which its receive completed (42_framer.md R124,
R128). -/
def receivedMessage (tmo : Nat) (rx : RxImage) (s : State) : InMessage :=
  ⟨(decodeFrame rx.bytes).1, (decodeFrame rx.bytes).2.1, (decodeFrame rx.bytes).2.2,
    (s.perform (.receive 18 (tmo + 100) (.ok rx))).timeNow⟩

/-- FramerReceive of a frame (42_framer.md R125, R128). -/
theorem framerReceive_frame (tmo : Nat) (s : State) (rx : RxImage) (h : s.recvAnswer = .ok rx)
    (hn : 5 ≤ rx.bytes.length) :
    framerReceive tmo s = (.ok (receivedMessage tmo rx s),
      performAll [.receive 18 (tmo + 100) (.ok rx), .now (receivedMessage tmo rx s).time] s) := by
  have hn' : ¬rx.bytes.length < 5 := by omega
  simp [framerReceive, h, acceptFrame, hn', rxBuf, tRxSlackMs, ovh, lMin, receivedMessage]

/-- The run of events of a FramerReceive: always one `T.receive`, then the time on success. -/
theorem framerReceive_cases (tmo : Nat) (s : State) :
    (∃ e, s.recvAnswer = .err e ∧ framerReceive tmo s =
      (.error (.transportError e), performAll [.receive 18 (tmo + 100) (.err e)] s)) ∨
    (∃ rx, s.recvAnswer = .ok rx ∧ rx.bytes.length < 5 ∧ framerReceive tmo s =
      (.error .badLength, performAll [.receive 18 (tmo + 100) (.ok rx)] s)) ∨
    (∃ rx, s.recvAnswer = .ok rx ∧ 5 ≤ rx.bytes.length ∧ framerReceive tmo s =
      (.ok (receivedMessage tmo rx s),
        performAll [.receive 18 (tmo + 100) (.ok rx), .now (receivedMessage tmo rx s).time] s)) := by
  cases h : s.recvAnswer with
  | err e => exact .inl ⟨e, rfl, framerReceive_err tmo s e h⟩
  | ok rx =>
    by_cases hn : rx.bytes.length < 5
    · exact .inr (.inl ⟨rx, rfl, hn, framerReceive_short tmo s rx h hn⟩)
    · exact .inr (.inr ⟨rx, rfl, by omega, framerReceive_frame tmo s rx h (by omega)⟩)

/-- The state in which the receive of a ReqResp begins: the frame is sent (43_reqresp.md R140). -/
def afterSend (ss : Session) (m : OutMessage) (s : State) : State :=
  performAll (sendEvents (encodeFrame m ss) .ok) s

/-- The wait and the send leave the pending input alone. -/
@[simp] theorem afterSend_rx (ss : Session) (m : OutMessage) (s : State) :
    (afterSend ss m s).rx = s.rx := rfl

theorem reqResp_badLength (ss : Session) (m : OutMessage) (tmo : Nat) (s : State)
    (h : ¬(1 ≤ m.payload.length ∧ m.payload.length ≤ 14)) :
    reqResp ss m tmo s = (.error .badLength, s) := by
  simp [reqResp, framerSend_badLength ss m s h]

theorem reqResp_sendErr (ss : Session) (m : OutMessage) (tmo : Nat) (s : State) (e : TErr)
    (hl : 1 ≤ m.payload.length ∧ m.payload.length ≤ 14) (h : answerToSend s = .err e) :
    reqResp ss m tmo s =
      (.error (.transportError e), performAll (sendEvents (encodeFrame m ss) (.err e)) s) := by
  simp only [reqResp, framerSend_legal ss m s hl, transmit_err _ s e h]

theorem reqResp_sent (ss : Session) (m : OutMessage) (tmo : Nat) (s : State)
    (hl : 1 ≤ m.payload.length ∧ m.payload.length ≤ 14) (h : answerToSend s = .ok) :
    reqResp ss m tmo s = framerReceive tmo (afterSend ss m s) := by
  simp only [reqResp, framerSend_legal ss m s hl, transmit_ok _ s h]
  rfl

theorem sendEvents_honest (tx : List Byte) (r : SendAnswer) (s : State) :
    Honest (sendEvents tx r) s := by simp [sendEvents]

/-- Whatever a FramerSend does is a run of events (42_framer.md R121 to R123). -/
theorem framerSend_run (ss : Session) (m : OutMessage) (s : State) :
    ∃ es, Honest es s ∧ (framerSend ss m s).2 = performAll es s := by
  by_cases hl : 1 ≤ m.payload.length ∧ m.payload.length ≤ 14
  · rw [framerSend_legal ss m s hl]
    cases h : answerToSend s with
    | ok => exact ⟨_, sendEvents_honest _ _ s, by rw [transmit_ok _ s h]⟩
    | err e => exact ⟨_, sendEvents_honest _ _ s, by rw [transmit_err _ s e h]⟩
  · exact ⟨[], trivial, by rw [framerSend_badLength ss m s hl]; rfl⟩

/-- Whatever a FramerReceive does is a run of events (42_framer.md R125 to R128). -/
theorem framerReceive_run (tmo : Nat) (s : State) :
    ∃ es, Honest es s ∧ (framerReceive tmo s).2 = performAll es s := by
  obtain ⟨e, -, he⟩ | ⟨rx, -, -, he⟩ | ⟨rx, -, -, he⟩ := framerReceive_cases tmo s
  · rw [he]; exact ⟨_, by simp, rfl⟩
  · rw [he]; exact ⟨_, by simp, rfl⟩
  · rw [he]; exact ⟨_, by simp [receivedMessage], rfl⟩

/-- Whatever a ReqResp does is a run of events (43_reqresp.md R140). -/
theorem reqResp_run (ss : Session) (m : OutMessage) (tmo : Nat) (s : State) :
    ∃ es, Honest es s ∧ (reqResp ss m tmo s).2 = performAll es s := by
  by_cases hl : 1 ≤ m.payload.length ∧ m.payload.length ≤ 14
  · cases h : answerToSend s with
    | err e => exact ⟨_, sendEvents_honest _ _ s, by rw [reqResp_sendErr ss m tmo s e hl h]⟩
    | ok =>
      obtain ⟨es, hes, he⟩ := framerReceive_run tmo (afterSend ss m s)
      refine ⟨sendEvents (encodeFrame m ss) .ok ++ es, ?_, ?_⟩
      · exact (Honest_append _ _ s).2 ⟨sendEvents_honest _ _ s, hes⟩
      · rw [reqResp_sent ss m tmo s hl h, he, afterSend, performAll_append]
  · exact ⟨[], trivial, by rw [reqResp_badLength ss m tmo s hl, performAll_nil]⟩

/-! The handshake. -/

/-- The warning START gives for an unconventional source (41_session.md R103). -/
def sourceWarning (source : Byte) : List Event :=
  if source = Config.testerAddr then [] else [.warn .nonConventionalSource]

/-- The events of START before `T.initBus` (41_session.md R103 to R106). -/
def startEvents (bitrate : Word32) (source : Byte) : List Event :=
  sourceWarning source ++ [.configure (effectiveBitrate bitrate) 8 1 .none, .flushInput, .wait 300]

theorem startEvents_honest (bitrate : Word32) (source : Byte) (s : State) :
    Honest (startEvents bitrate source) s := by
  by_cases h : source = Config.testerAddr <;> simp [startEvents, sourceWarning, h]

/-- The state in which `T.initBus` begins. -/
def beforeInit (bitrate : Word32) (target source : Byte) (s : State) : State :=
  performAll (startEvents bitrate source)
    ((s.setFsm .initializing).setSession (newSession bitrate target source s.draws))

theorem prepareLine_openSession (bitrate : Word32) (target source : Byte) (s : State) :
    prepareLine bitrate (openSession bitrate target source s) = beforeInit bitrate target source s := by
  by_cases h : source = Config.testerAddr <;>
    simp [prepareLine, openSession, beforeInit, startEvents, sourceWarning, h, dataBits, stopBits,
      tSettleMs]

/-- A settled answer is the one `T.initBus` gives. -/
theorem beforeInit_answer (bitrate : Word32) (target source : Byte) (s : State) (r : InitAnswer)
    (h : s.initAnswers.head? = some r) : (beforeInit bitrate target source s).initAnswer = r := by
  by_cases hsrc : source = Config.testerAddr <;> cases hs : s.initAnswers <;>
    simp_all [beforeInit, startEvents, sourceWarning, State.initAnswer, Event.initAnswersAfter]

/-- The `T.initBus` of START has happened (41_session.md R107). -/
def afterInit (bitrate : Word32) (target source : Byte) (s : State) : State :=
  (beforeInit bitrate target source s).perform
    (.initBus .slow5Baud (parityByte target .odd) (beforeInit bitrate target source s).initAnswer)

theorem handshake_err (bitrate : Word32) (target source : Byte) (s : State) (e : TErr)
    (h : (beforeInit bitrate target source s).initAnswer = .err e) :
    handshake bitrate target source s =
      (afterInit bitrate target source s).release.raise (.transportError e) := by
  simp only [handshake, prepareLine_openSession, h, failHandshake, afterInit]

theorem handshake_ok (bitrate : Word32) (target source : Byte) (s : State) (kb1 kb2 : Byte)
    (h : (beforeInit bitrate target source s).initAnswer = .ok kb1 kb2) :
    handshake bitrate target source s =
      checkKeyBytes bitrate target source kb1 kb2 (afterInit bitrate target source s) := by
  simp only [handshake, prepareLine_openSession, h, afterInit]

theorem checkKeyBytes_match (bitrate : Word32) (target source : Byte) (s : State) :
    checkKeyBytes bitrate target source 0xD3 0xB0 s =
      ((s.setSession ⟨source, target, effectiveBitrate bitrate, 0xD3, 0xB0⟩).setFsm .active).respond
        (sessionPacket ⟨source, target, effectiveBitrate bitrate, 0xD3, 0xB0⟩) := rfl

theorem checkKeyBytes_mismatch (bitrate : Word32) (target source kb1 kb2 : Byte) (s : State)
    (h : ¬(kb1 = 0xD3 ∧ kb2 = 0xB0)) :
    checkKeyBytes bitrate target source kb1 kb2 s = s.release.raise .wrongKeyBytes := by
  have h' : ¬(kb1 = kb1Exp ∧ kb2 = kb2Exp) := h
  simp only [checkKeyBytes, if_neg h', failHandshake]
  rfl

end Sys2Proof.Machine
end

