-- ==== Sys2Proof/Laws/Exec.lean ====
section
/-! SUPPORT. What an instruction can do, said once: a command is a run of events from the state it starts
in, with FSM and the session written around it, and one response; a wire item only adds to what the
transport holds. -/

namespace Sys2Proof.Machine

/-! START's checks, one lemma each (41_session.md R100 to R102). -/

/-- The init type is slow-init when bits 1 and 0 of `flags` are clear (30_encoding.md R72). -/
theorem initType_eq_zero_iff (flags : Byte) :
    initType flags = 0 ↔ flags.getLsbD 0 = false ∧ flags.getLsbD 1 = false := by
  revert flags; decide

section
variable (flags : Byte) (bitrate : Word32) (target source : Byte) (s : State)

theorem execStart_badState (h : ¬(s.fsm = .idle ∨ s.fsm = .closed)) :
    execStart flags bitrate target source s = .next (s.raise .badState) := by
  rw [execStart, if_neg h]

theorem execStart_noCapability (h : s.fsm = .idle ∨ s.fsm = .closed)
    (hc : ¬(s.capFullInit = true ∧ s.capCksum = true)) :
    execStart flags bitrate target source s = .next (s.raise .protocolNotSupported) := by
  rw [execStart, if_pos h, if_neg (by simpa using hc)]

theorem execStart_otherInit (h : s.fsm = .idle ∨ s.fsm = .closed)
    (hc : s.capFullInit = true ∧ s.capCksum = true) (hi : initType flags ≠ 0) :
    execStart flags bitrate target source s = .next (s.raise .initNotSupported) := by
  rw [execStart, if_pos h, if_pos (by simpa using hc), if_neg hi]

theorem execStart_handshake (h : s.fsm = .idle ∨ s.fsm = .closed)
    (hc : s.capFullInit = true ∧ s.capCksum = true) (hi : initType flags = 0) :
    execStart flags bitrate target source s = .next (handshake bitrate target source s) := by
  rw [execStart, if_pos h, if_pos (by simpa using hc), if_pos hi]

end

/-! The commands of an active session: with the session, without one, and refused. -/

section
variable (s : State) (ss : Session) (dest src : Byte) (payload : List Byte) (timeout : Timeout)

theorem execStop_active (h : s.fsm = .active) (hs : s.sess = some ss) :
    execStop s = .next (finishStop (reqResp ss (controlMessage ctlStop) tCtlMs (s.setFsm .stopping))) := by
  simp only [execStop, if_pos h, hs]

theorem execStop_absent (h : s.fsm = .active) (hs : s.sess = none) :
    execStop s = .fault .sessionAbsent := by
  simp only [execStop, if_pos h, hs]

theorem execStop_refused (h : s.fsm ≠ .active) : execStop s = .next (s.raise .badState) := by
  rw [execStop, if_neg h]

theorem execIdle_active (h : s.fsm = .active) (hs : s.sess = some ss) :
    execIdle s = .next ((reqResp ss (controlMessage ctlKeepalive) tCtlMs s).2.respond okPacket) := by
  simp only [execIdle, if_pos h, hs]

theorem execIdle_absent (h : s.fsm = .active) (hs : s.sess = none) :
    execIdle s = .fault .sessionAbsent := by
  simp only [execIdle, if_pos h, hs]

theorem execIdle_refused (h : s.fsm ≠ .active) : execIdle s = .next (s.raise .badState) := by
  rw [execIdle, if_neg h]

theorem execSend_active (h : s.fsm = .active) (hs : s.sess = some ss) :
    execSend dest src payload s = .next (finishSend (framerSend ss ⟨payload, dest, src⟩ s)) := by
  simp only [execSend, if_pos h, hs]

theorem execSend_absent (h : s.fsm = .active) (hs : s.sess = none) :
    execSend dest src payload s = .fault .sessionAbsent := by
  simp only [execSend, if_pos h, hs]

theorem execSend_refused (h : s.fsm ≠ .active) : execSend dest src payload s = .next (s.raise .badState) := by
  rw [execSend, if_neg h]

theorem execReqresp_active (h : s.fsm = .active) (hs : s.sess = some ss) :
    execReqresp timeout dest src payload s = .next (finishMessage (reqResp ss ⟨payload, dest, src⟩ timeout.toNat s)) := by
  simp only [execReqresp, if_pos h, hs]

theorem execReqresp_absent (h : s.fsm = .active) (hs : s.sess = none) :
    execReqresp timeout dest src payload s = .fault .sessionAbsent := by
  simp only [execReqresp, if_pos h, hs]

theorem execReqresp_refused (h : s.fsm ≠ .active) : execReqresp timeout dest src payload s = .next (s.raise .badState) := by
  rw [execReqresp, if_neg h]

theorem execRecv_active (h : s.fsm = .active) :
    execRecv timeout s = .next (finishMessage (framerReceive timeout.toNat s)) := by
  rw [execRecv, if_pos h]

theorem execRecv_refused (h : s.fsm ≠ .active) :
    execRecv timeout s = .next (s.raise .badState) := by
  rw [execRecv, if_neg h]

end

/-- `t` is the end of a command that begins in `s`: the events `es` happen while FSM is `f`, then FSM, the
session and the responses are what `t` has. -/
def EndsRun (s t : State) (f : Fsm) (es : List Event) : Prop :=
  ∃ x, Honest es { s with fsm := f, sess := x } ∧ t = { performAll es { s with fsm := f, sess := x } with
    fsm := t.fsm, sess := t.sess, responses := t.responses }

theorem EndsRun.refuse (s : State) (k : CmdError) : EndsRun s (s.raise k) s.fsm [] :=
  ⟨s.sess, trivial, rfl⟩

theorem EndsRun.respond {s t : State} {f : Fsm} {es : List Event} (h : EndsRun s t f es)
    (p : List Byte) : EndsRun s (t.respond p) f es := by
  obtain ⟨x, hes, hx⟩ := h
  exact ⟨x, hes, by rw [hx]; rfl⟩

theorem EndsRun.raise {s t : State} {f : Fsm} {es : List Event} (h : EndsRun s t f es)
    (k : CmdError) : EndsRun s (t.raise k) f es := h.respond _

theorem EndsRun.release {s t : State} {f : Fsm} {es : List Event} (h : EndsRun s t f es) :
    EndsRun s t.release f es := by
  obtain ⟨x, hes, hx⟩ := h
  exact ⟨x, hes, by rw [hx]; rfl⟩

theorem EndsRun.setFsm {s t : State} {f : Fsm} {es : List Event} (h : EndsRun s t f es) (g : Fsm) :
    EndsRun s (t.setFsm g) f es := by
  obtain ⟨x, hes, hx⟩ := h
  exact ⟨x, hes, by rw [hx]; rfl⟩

theorem EndsRun.setSession {s t : State} {f : Fsm} {es : List Event} (h : EndsRun s t f es)
    (ss : Session) : EndsRun s (t.setSession ss) f es := by
  obtain ⟨x, hes, hx⟩ := h
  exact ⟨x, hes, by rw [hx]; rfl⟩

theorem EndsRun.of_performAll (s : State) (es : List Event) (h : Honest es s) :
    EndsRun s (performAll es s) s.fsm es :=
  ⟨s.sess, h, rfl⟩

theorem EndsRun.of_setFsm (s : State) (f : Fsm) (es : List Event) (h : Honest es (s.setFsm f)) :
    EndsRun s (performAll es (s.setFsm f)) f es :=
  ⟨s.sess, h, rfl⟩

theorem afterInit_run (bitrate : Word32) (target source : Byte) (s : State) :
    ∃ es, EndsRun s (afterInit bitrate target source s) .initializing es :=
  ⟨startEvents bitrate source ++ [.initBus .slow5Baud (parityByte target .odd)
      (beforeInit bitrate target source s).initAnswer],
    some (newSession bitrate target source s.draws),
    (Honest_append _ _ _).2 ⟨startEvents_honest _ _ _, by simp⟩, by rw [performAll_append]; rfl⟩

theorem handshake_run (bitrate : Word32) (target source : Byte) (s : State) :
    ∃ es, EndsRun s (handshake bitrate target source s) .initializing es := by
  obtain ⟨es, h⟩ := afterInit_run bitrate target source s
  refine ⟨es, ?_⟩
  cases hr : (beforeInit bitrate target source s).initAnswer with
  | err e => rw [handshake_err bitrate target source s e hr]; exact h.release.raise _
  | ok kb1 kb2 =>
    rw [handshake_ok bitrate target source s kb1 kb2 hr]
    by_cases hk : kb1 = 0xD3 ∧ kb2 = 0xB0
    · obtain ⟨rfl, rfl⟩ := hk
      rw [checkKeyBytes_match]
      exact ((h.setSession _).setFsm _).respond _
    · rw [checkKeyBytes_mismatch bitrate target source kb1 kb2 _ hk]
      exact h.release.raise _

theorem finishMessage_run (r : Except CmdError InMessage × State) (s : State) (f : Fsm)
    (es : List Event) (h : EndsRun s r.2 f es) : EndsRun s (finishMessage r) f es := by
  obtain ⟨_ | _, u⟩ := r
  · exact h.raise _
  · exact h.respond _

theorem finishSend_run (r : Except CmdError Unit × State) (s : State) (f : Fsm)
    (es : List Event) (h : EndsRun s r.2 f es) : EndsRun s (finishSend r) f es := by
  obtain ⟨_ | _, u⟩ := r
  · exact h.raise _
  · exact h.respond _

theorem finishStop_run (r : Except CmdError InMessage × State) (s : State) (es : List Event)
    (hes : Honest es (s.setFsm .stopping)) (h : r.2 = performAll es (s.setFsm .stopping)) :
    ∃ es', EndsRun s (finishStop r) .stopping es' := by
  obtain ⟨k | m, u⟩ := r
  · refine ⟨es ++ [.warn .stopNotAcknowledged, .wait tStopFallbackMs], ?_⟩
    have hu : (u.perform (.warn .stopNotAcknowledged)).perform (.wait tStopFallbackMs) =
        performAll (es ++ [.warn .stopNotAcknowledged, .wait tStopFallbackMs])
          (s.setFsm .stopping) := by
      rw [performAll_append, ← h]; rfl
    exact (hu ▸ EndsRun.of_setFsm s .stopping _
      ((Honest_append _ _ _).2 ⟨hes, by simp⟩)).release.respond _
  · obtain rfl : u = performAll es (s.setFsm .stopping) := h
    exact ⟨es, (EndsRun.of_setFsm s .stopping es hes).release.respond _⟩

/-- Every command that completes is a run of events (00_scope.md R9). -/
theorem exec_run (i : Instr) (s t : State) (hc : isCommand i = true) (h : exec i s = .next t) :
    ∃ f es, EndsRun s t f es := by
  cases i with
  | parity v m =>
    obtain rfl : s.respond _ = t := by simpa [exec, execParity] using h
    exact ⟨_, [], (EndsRun.of_performAll s [] trivial).respond _⟩
  | start flags bitrate target source =>
    simp only [exec, execStart] at h
    split at h
    · split at h
      · split at h <;> cases h
        · exact ⟨_, handshake_run bitrate target source s⟩
        · exact ⟨_, [], EndsRun.refuse s _⟩
      · cases h; exact ⟨_, [], EndsRun.refuse s _⟩
    · cases h; exact ⟨_, [], EndsRun.refuse s _⟩
  | stop =>
    simp only [exec, execStop] at h
    split at h
    · split at h <;> cases h
      obtain ⟨es, hes, he⟩ := reqResp_run ‹_› (controlMessage ctlStop) tCtlMs (s.setFsm .stopping)
      exact ⟨_, finishStop_run _ s es hes he⟩
    · cases h; exact ⟨_, [], EndsRun.refuse s _⟩
  | idle =>
    simp only [exec, execIdle] at h
    split at h
    · split at h <;> cases h
      obtain ⟨es, hes, he⟩ := reqResp_run ‹_› (controlMessage ctlKeepalive) tCtlMs s
      exact ⟨_, es, he ▸ (EndsRun.of_performAll s es hes).respond _⟩
    · cases h; exact ⟨_, [], EndsRun.refuse s _⟩
  | send dest src payload =>
    simp only [exec, execSend] at h
    split at h
    · split at h <;> cases h
      obtain ⟨es, hes, he⟩ := framerSend_run ‹_› ⟨payload, dest, src⟩ s
      exact ⟨_, es, finishSend_run _ s _ es (he ▸ EndsRun.of_performAll s es hes)⟩
    · cases h; exact ⟨_, [], EndsRun.refuse s _⟩
  | recv timeout =>
    simp only [exec, execRecv] at h
    split at h <;> cases h
    · obtain ⟨es, hes, he⟩ := framerReceive_run timeout.toNat s
      exact ⟨_, es, finishMessage_run _ s _ es (he ▸ EndsRun.of_performAll s es hes)⟩
    · exact ⟨_, [], EndsRun.refuse s _⟩
  | reqresp timeout dest src payload =>
    simp only [exec, execReqresp] at h
    split at h
    · split at h <;> cases h
      obtain ⟨es, hes, he⟩ := reqResp_run ‹_› ⟨payload, dest, src⟩ timeout.toNat s
      exact ⟨_, es, finishMessage_run _ s _ es (he ▸ EndsRun.of_performAll s es hes)⟩
    · cases h; exact ⟨_, [], EndsRun.refuse s _⟩
  | frame len da sa payload ck => simp [isCommand] at hc
  | frameStopsession da sa ck => simp [isCommand] at hc
  | frameKeepalive da sa ck => simp [isCommand] at hc
  | initAddress a => simp [isCommand] at hc
  | initKeybytes => simp [isCommand] at hc

end Sys2Proof.Machine
end

