-- ==== Sys2Proof/Laws/PerInstr.lean ====
section
/-! SUPPORT. One family over the constructors of Instr: what the opcode table says of a row's first byte and
length holds of its encoding. -/

namespace Sys2Proof.Laws.TableRow

open Sys2Proof.Machine

/-- The length in bytes the table gives a row: its `length_bytes` (30_encoding.md R60, R71). -/
def byteLength : Instr → Nat
  | .parity _ _ => 3
  | .start _ _ _ _ => 8
  | .stop => 1
  | .idle => 1
  | .send _ _ payload => 4 + payload.length
  | .recv _ => 3
  | .reqresp _ _ _ payload => 6 + payload.length
  | .frame _ _ _ payload _ => payload.length + 4
  | .frameStopsession _ _ _ => 5
  | .frameKeepalive _ _ _ => 5
  | .initAddress _ => 1
  | .initKeybytes => 2

/-- The first byte the table fixes for a row; none where it fixes none, or (FRAME) only what the
serialiser emits (30_encoding.md R79). -/
def firstByte : Instr → Option Byte
  | .parity _ _ => some 0x01
  | .start _ _ _ _ => some 0x10
  | .stop => some 0x11
  | .idle => some 0x12
  | .send _ _ _ => some 0x20
  | .recv _ => some 0x21
  | .reqresp _ _ _ _ => some 0x22
  | .frame _ _ _ _ _ => none
  | .frameStopsession _ _ _ => some 0x82
  | .frameKeepalive _ _ _ => some 0x82
  | .initAddress _ => none
  | .initKeybytes => some 0xD3

/-- The encoding has the table's length and begins with the table's first byte. -/
def Statement (i : Instr) : Prop :=
  (encode i).length = byteLength i ∧ ∀ b, firstByte i = some b → (encode i).head? = some b

theorem parity (v : Byte) (m : ParityMode) : Statement (.parity v m) := by
  simp [Statement, encode, byteLength, firstByte, opPARITY]

theorem start (f : Byte) (b : Word32) (t s : Byte) : Statement (.start f b t s) := by
  simp [Statement, encode, byteLength, firstByte, opSTART, be32]

theorem stop : Statement .stop := by
  simp [Statement, encode, byteLength, firstByte, opSTOP]

theorem idle : Statement .idle := by
  simp [Statement, encode, byteLength, firstByte, opIDLE]

theorem send (d s : Byte) (p : List Byte) : Statement (.send d s p) := by
  simp [Statement, encode, byteLength, firstByte, opSEND]; omega

theorem recv (t : Timeout) : Statement (.recv t) := by
  simp [Statement, encode, byteLength, firstByte, opRECV, be16]

theorem reqresp (t : Timeout) (d s : Byte) (p : List Byte) : Statement (.reqresp t d s p) := by
  simp [Statement, encode, byteLength, firstByte, opREQRESP, be16]; omega

theorem frame (l d s : Byte) (p : List Byte) (c : Byte) : Statement (.frame l d s p c) := by
  simp [Statement, encode, byteLength, firstByte]

theorem frameStopsession (d s c : Byte) : Statement (.frameStopsession d s c) := by
  simp [Statement, encode, byteLength, firstByte, lenByte, lenBase]

theorem frameKeepalive (d s c : Byte) : Statement (.frameKeepalive d s c) := by
  simp [Statement, encode, byteLength, firstByte, lenByte, lenBase]

theorem initAddress (a : BitVec 7) : Statement (.initAddress a) := by
  simp [Statement, encode, byteLength, firstByte]

theorem initKeybytes : Statement .initKeybytes := by
  simp [Statement, encode, byteLength, firstByte, kb1Exp]

end Sys2Proof.Laws.TableRow
end

