-- ==== Sys2Proof/Tests/Slice0.lean ====
section
/-! SUPPORT. Tests of the model on the spec's own words and vectors (30_encoding.md, 95_test_vectors.md), and
for every obligation with hypotheses a state and operands that meet them together. -/

namespace Sys2Proof.Tests

open Sys2Proof Sys2Proof.Machine

/-! States the tests start in: the conventions of 95_test_vectors.md. -/

/-- The session of the conventions. -/
def sess : Session := ⟨0x21, 0x33, 10400, 0xD3, 0xB0⟩

/-- An active session; the transport's next answers are given. -/
def active (rx : List RecvAnswer) (sends : List SendAnswer) : State :=
  { State.reset with
    fsm := .active, sess := some sess, line := some ⟨10400, 8, 1, .none⟩, rx := rx, sendAnswers := sends }

/-- Idle, with the capability levels and the transport's answers to `T.initBus`. -/
def idle (full cksum : Bool) (answers : List InitAnswer) : State :=
  { State.reset with capFullInit := full, capCksum := cksum, initAnswers := answers }

/-- Closed, with both capabilities. -/
def closed (answers : List InitAnswer) : State := { State.reset with fsm := .closed, initAnswers := answers }

/-- A transport error. -/
def e2 : TErr := ⟨0x02, by decide⟩
def e9 : TErr := ⟨0x09, by decide⟩

/-- The state an outcome goes on in. -/
def nextOf (o : Host.Outcome State Fault Refusal) (s : State) : State :=
  match o with
  | .next t => t
  | .fault _ => s
  | .refused _ => s

/-- The responses after an instruction. -/
def answerOf (i : Instr) (s : State) : List (List Byte) := (nextOf (exec i s) s).responses

/-- The events after an instruction. -/
def eventsOf (i : Instr) (s : State) : List Event := (nextOf (exec i s) s).events

/-- Whether events of some kind happen (the open parameters cannot be evaluated). -/
def warnings (es : List Event) : List Warning :=
  es.filterMap fun e => match e with
    | .warn k => some k
    | _ => none

/-- The frames handed to the transport. -/
def framesSent (es : List Event) : List (List Byte) :=
  es.filterMap fun e => match e with
    | .send tx _ _ => some tx
    | _ => none

/-- The arguments of every `T.receive`. -/
def receives (es : List Event) : List (Nat × Nat) :=
  es.filterMap fun e => match e with
    | .receive size budget _ => some (size, budget)
    | _ => none

/-! WellFormed: an ill-formed term for each check. -/

theorem test_wellFormed_send_256 (p : List Byte) (h : p.length = 256) :
    (Instr.send 0 0 p).wellFormed = false := by simp [Instr.wellFormed, h]
theorem test_wellFormed_send_255 (p : List Byte) (h : p.length = 255) :
    (Instr.send 0 0 p).wellFormed = true := by simp [Instr.wellFormed, h]
theorem test_wellFormed_reqresp_256 (p : List Byte) (h : p.length = 256) :
    (Instr.reqresp 0 0 0 p).wellFormed = false := by simp [Instr.wellFormed, h]
theorem test_wellFormed_frame_no_payload : (Instr.frame 0x81 0 0 [] 0).wellFormed = false := by decide
theorem test_wellFormed_frame_payload_15 :
    (Instr.frame 0x90 0 0 (List.replicate 15 0) 0).wellFormed = false := by decide
theorem test_wellFormed_frame_is_stopsession : (Instr.frame 0x82 1 2 [0xA0] 3).wellFormed = false := by
  decide
theorem test_wellFormed_frame_is_keepalive : (Instr.frame 0x82 1 2 [0xA1] 3).wellFormed = false := by
  decide
theorem test_wellFormed_frame_other_length_byte :
    (Instr.frame 0x83 1 2 [0xA0] 3).wellFormed = true := by decide

/-! Decoding: one word for every constructor, written out from 30_encoding.md R60, R66 to R73. -/

theorem test_decode_parity :
    decodePacket [0b00000001, 0b00110011, 0b00000001] = .ok (.parity 0x33 .odd) ∧
    decodePacket [0b00000001, 0b11111111, 0b00000000] = .ok (.parity 0xFF .even) := by decide
theorem test_decode_start :
    decodePacket [0b00010000, 0b11111110, 0x01, 0x23, 0x45, 0x67, 0x33, 0x21] =
      .ok (.start 0xFE 0x01234567 0x33 0x21) := by decide
theorem test_decode_stop : decodePacket [0b00010001] = .ok .stop := by decide
theorem test_decode_idle : decodePacket [0b00010010] = .ok .idle := by decide
theorem test_decode_send :
    decodePacket [0b00100000, 0x7A, 0x00, 0x02, 0x01, 0x02] = .ok (.send 0x7A 0 [1, 2]) ∧
    decodePacket [0x20, 0x00, 0xF1, 0x00] = .ok (.send 0 0xF1 []) := by decide
theorem test_decode_recv : decodePacket [0b00100001, 0x01, 0xF4] = .ok (.recv 500) := by decide
theorem test_decode_reqresp :
    decodePacket [0b00100010, 0x00, 0xFA, 0x7A, 0x00, 0x01, 0x3E] = .ok (.reqresp 250 0x7A 0 [0x3E]) ∧
    decodePacket [0x22, 0x03, 0xE8, 0x00, 0x00, 0x00] = .ok (.reqresp 1000 0 0 []) := by decide
theorem test_decode_frame :
    decodeLine [0b10000011, 0x21, 0x33, 0x7E, 0x01, 0x55] = .ok (.frame 0x83 0x21 0x33 [0x7E, 0x01] 0x55) ∧
    decodeLine [0x8F, 0x21, 0x33, 0x55, 0x77] = .ok (.frame 0x8F 0x21 0x33 [0x55] 0x77) := by decide
theorem test_decode_frameStopsession :
    decodeLine [0b10000010, 0x33, 0x21, 0b10100000, 0x55] = .ok (.frameStopsession 0x33 0x21 0x55) := by
  decide
theorem test_decode_frameKeepalive :
    decodeLine [0b10000010, 0x33, 0x21, 0b10100001, 0x55] = .ok (.frameKeepalive 0x33 0x21 0x55) := by
  decide
theorem test_decode_initAddress :
    decodeAddress 0b10110011 = .ok (.initAddress 0b0110011) ∧
    decodeAddress 0b00110011 = .undefined .notAnAddress := by decide
theorem test_decode_initKeybytes :
    decodeInitAnswer (.ok 0b11010011 0b10110000) = .ok .initKeybytes ∧
    decodeInitAnswer (.ok 0xB0 0xD3) = .undefined .notTheKeyBytes := by decide

/-! 95_test_vectors.md section 2.7: undefined packets. -/

theorem test_undefined_opcodes :
    decodePacket [0x00] = .undefined .undefinedOpcode ∧
    decodePacket [0x02, 0x00, 0x00] = .undefined .undefinedOpcode ∧
    decodePacket [0x13] = .undefined .undefinedOpcode ∧
    decodePacket [0x23, 0x00] = .undefined .undefinedOpcode ∧
    decodePacket [0xFF] = .undefined .undefinedOpcode ∧
    decodePacket [] = .undefined .emptyPacket := by decide
theorem test_undefined_lengths :
    decodePacket [0x10, 0x00, 0x00, 0x00, 0x28, 0xA0, 0x33] = .undefined .wrongLength ∧
    decodePacket [0x11, 0x00] = .undefined .wrongLength ∧
    decodePacket [0x21, 0x01] = .undefined .wrongLength ∧
    decodePacket [0x20, 0x00, 0x00, 0x02, 0x3E] = .undefined .wrongLength ∧
    decodePacket [0x01, 0x33] = .undefined .wrongLength := by decide
theorem test_undefined_modes :
    decodePacket [0x01, 0x33, 0x02] = .undefined .reservedMode ∧
    decodePacket [0x01, 0x33, 0xFF] = .undefined .reservedMode := by decide
theorem test_undefined_line :
    decodeLine [0x82, 0x21, 0x33, 0x55] = .undefined .notAFrame ∧ decodeLine [] = .undefined .notAFrame := by
  decide

/-! Table words. -/

theorem test_tableWord_commands :
    decodeTableWord 24 0x013301 = some (.parity 0x33 .odd) ∧
    decodeTableWord 64 0x2133A02800000010 = some (.start 0 10400 0x33 0x21) ∧
    decodeTableWord 8 0x11 = some .stop ∧ decodeTableWord 8 0x12 = some .idle ∧
    decodeTableWord 32 0x00F17A20 = some (.send 0x7A 0xF1 []) ∧
    decodeTableWord 24 0xF40121 = some (.recv 500) ∧
    decodeTableWord 48 0x00007AFA0022 = some (.reqresp 250 0x7A 0 []) := by decide
theorem test_tableWord_operands_beyond_nbits :
    decodeTableWord 8 0x01 = some (.parity 0 .even) ∧ decodeTableWord 8 0x10 = some (.start 0 0 0 0) ∧
    decodeTableWord 8 0x20 = some (.send 0 0 []) ∧ decodeTableWord 8 0x22 = some (.reqresp 0 0 0 []) := by
  decide
theorem test_tableWord_wire :
    decodeTableWord 8 0x80 = some (.frame 0x80 0 0 (List.replicate 14 0) 0) ∧
    decodeTableWord 40 0x55A0213382 = some (.frameStopsession 0x33 0x21 0x55) ∧
    decodeTableWord 40 0x55A1213382 = some (.frameKeepalive 0x33 0x21 0x55) ∧
    decodeTableWord 8 0xB3 = some (.initAddress 0x33) ∧
    decodeTableWord 16 0xD3B0 = some .initKeybytes := by decide
theorem test_withFetchWord_runs_it :
    (nextOf (step (State.reset.withFetchWord 24 0x013301)) State.reset).responses = [[0x00, 0xB3]] := by
  rfl
theorem test_withFetchWord_runs_it_active :
    (nextOf (step ((active [.err e2] []).withFetchWord 24 0xF40121)) State.reset).responses =
      [[0x06, 0x02]] := by rfl

/-! PARITY: 95_test_vectors.md section 2.1, the rows where the rejected reading differs among them. -/

theorem test_parity_rows :
    parityByte 0x13 .even = 0x93 ∧ parityByte 0x13 .odd = 0x13 ∧ parityByte 0x7A .even = 0xFA ∧
    parityByte 0x80 .odd = 0x80 ∧ parityByte 0xA1 .even = 0x21 ∧ parityByte 0xD3 .odd = 0xD3 ∧
    parityByte 0xFF .even = 0xFF ∧ parityByte 0xFF .odd = 0x7F := by decide
theorem test_parity_command : answerOf (.parity 0x33 .odd) State.reset = [[0x00, 0xB3]] := by rfl

/-- 00_scope.md R12: the key bytes carry odd parity and form the number 6227. -/
theorem test_parity_of_key_bytes :
    parityByte 0x53 .odd = 0xD3 ∧ parityByte 0x30 .odd = 0xB0 ∧
    (kb2Exp &&& 0x7F).toNat * 128 + (kb1Exp &&& 0x7F).toNat = 6227 := by decide

/-- 10_state.md R21. -/
theorem test_fsm_codes :
    [Fsm.idle, .initializing, .active, .stopping, .closed].map fsmCode = [0, 1, 2, 3, 4] := by decide

/-! START: 95_test_vectors.md section 2.2. -/

/-- S1. -/
theorem test_start_S1 :
    answerOf (.start 0 0 0x33 0x21) (idle true true [.ok 0xD3 0xB0]) =
      [[0x00, 0x21, 0x33, 0x00, 0x00, 0x28, 0xA0, 0xD3, 0xB0]] := by
  change (handshake 0 0x33 0x21 (idle true true [.ok 0xD3 0xB0])).responses = _
  rw [handshake_ok _ _ _ _ 0xD3 0xB0 (beforeInit_answer _ _ _ _ _ rfl), checkKeyBytes_match]
  simp only [State.respond_responses, State.setFsm_responses, State.setSession_responses, afterInit,
    beforeInit, State.perform_responses, performAll_responses]
  rfl

/-- S4, S6, S16, S10: the checks in their order; the pair with its parity bits stripped is a mismatch. -/
theorem test_start_S4_S6_S16_S10 :
    answerOf (.start 1 0 0x33 0x21) (idle false false []) = [[0x03]] ∧
    answerOf (.start 3 0 0x33 0x21) (idle true true []) = [[0x04]] ∧
    answerOf (.start 1 0 0x33 0x21) (active [] []) = [[0x0E]] ∧
    answerOf (.start 0 0 0x33 0x21) (closed [.ok 0x53 0x30]) = [[0x05]] := by
  refine ⟨rfl, rfl, rfl, ?_⟩
  change (handshake 0 0x33 0x21 (closed [.ok 0x53 0x30])).responses = _
  rw [handshake_ok _ _ _ _ 0x53 0x30 (beforeInit_answer _ _ _ _ _ rfl),
    checkKeyBytes_mismatch _ _ _ _ _ _ (by decide)]
  simp only [State.raise_responses, State.release_responses, afterInit, beforeInit,
    State.perform_responses, performAll_responses]
  rfl

/-! STOP and IDLE: 95_test_vectors.md section 2.3. -/

/-- T1. -/
theorem test_stop_T1 :
    answerOf .stop (active [.ok ⟨[0x82, 0x21, 0x33, 0xE0, 0x55], by decide⟩] [.ok]) = [[0x00]] ∧
    framesSent (eventsOf .stop (active [.ok ⟨[0x82, 0x21, 0x33, 0xE0, 0x55], by decide⟩] [.ok])) =
      [[0x82, 0x33, 0x21, 0xA0]] ∧
    warnings (eventsOf .stop (active [.ok ⟨[0x82, 0x21, 0x33, 0xE0, 0x55], by decide⟩] [.ok])) = [] :=
  ⟨rfl, rfl, rfl⟩

/-- T3 and T4: no receive after a failed send; a reply of 3 bytes is no acknowledgement. -/
theorem test_stop_T3_T4 :
    receives (eventsOf .stop (active [] [.err e9])) = [] ∧
    warnings (eventsOf .stop (active [] [.err e9])) = [.stopNotAcknowledged] ∧
    receives (eventsOf .stop (active [.ok ⟨[0x82, 0x21, 0x33], by decide⟩] [.ok])) = [(18, 1100)] ∧
    warnings (eventsOf .stop (active [.ok ⟨[0x82, 0x21, 0x33], by decide⟩] [.ok])) =
      [.stopNotAcknowledged] := ⟨rfl, rfl, rfl, rfl⟩

/-- T8. -/
theorem test_idle_T8 :
    answerOf .idle (active [.err e2] [.ok]) = [[0x00]] ∧
    framesSent (eventsOf .idle (active [.err e2] [.ok])) = [[0x82, 0x33, 0x21, 0xA1]] ∧
    warnings (eventsOf .idle (active [.err e2] [.ok])) = [] := ⟨rfl, rfl, rfl⟩

/-- T10. -/
theorem test_idle_T10 : answerOf .idle (closed []) = [[0x0E]] := rfl

/-! SEND: 95_test_vectors.md section 2.4. -/

/-- F4, F3: the longest frame; each address falls back alone. -/
theorem test_send_F4 :
    framesSent (eventsOf (.send 0x7A 0xF1 [1, 2, 3, 4, 5, 6, 7, 8, 9, 10, 11, 12, 13, 14])
      (active [] [.ok])) =
      [[0x8F, 0x7A, 0xF1, 1, 2, 3, 4, 5, 6, 7, 8, 9, 10, 11, 12, 13, 14]] ∧
    framesSent (eventsOf (.send 0 0xF1 [0xAA]) (active [] [.ok])) = [[0x82, 0x33, 0xF1, 0xAA]] :=
  ⟨rfl, rfl⟩

/-- F5, F7, F10. -/
theorem test_send_F5_F7_F10 :
    answerOf (.send 0 0 []) (active [] []) = [[0x01]] ∧
    answerOf (.send 0 0 [0x3E]) (active [] [.err e9]) = [[0x06, 0x09]] ∧
    answerOf (.send 0 0 []) (idle true true []) = [[0x0E]] := ⟨rfl, rfl, rfl⟩

/-! RECV: 95_test_vectors.md section 2.5. -/

/-- V1, at time 0x00012345. -/
theorem test_recv_V1 :
    answerOf (.recv 500) { active [.ok ⟨[0x83, 0x21, 0x33, 0x7E, 0x01, 0x55], by decide⟩] [] with
      clock := 0x12345, delays := [0] } =
      [[0x00, 0x21, 0x33, 0x02, 0x7E, 0x01, 0x00, 0x01, 0x23, 0x45]] := by rfl

/-- V4, V11: a frame of 4 bytes; the budget of the greatest timeout. -/
theorem test_recv_V4_V11 :
    answerOf (.recv 500) (active [.ok ⟨[0x82, 0x21, 0x33, 0x55], by decide⟩] []) = [[0x01]] ∧
    receives (eventsOf (.recv 65535) (active [.err e2] [])) = [(18, 65635)] := ⟨rfl, rfl⟩

/-! REQRESP: 95_test_vectors.md section 2.6. -/

/-- Q2, Q3, Q5. -/
theorem test_reqresp_Q2_Q3_Q5 :
    answerOf (.reqresp 1000 0 0 [0xB9, 0xF0]) (active [] [.err e9]) = [[0x06, 0x09]] ∧
    answerOf (.reqresp 1000 0 0 [0xB9, 0xF0]) (active [.err e2] [.ok]) = [[0x06, 0x02]] ∧
    answerOf (.reqresp 1000 0 0 [0xB9, 0xF0]) (active [.ok ⟨[0x82, 0x21], by decide⟩] [.ok]) = [[0x01]] :=
  ⟨rfl, rfl, rfl⟩

/-- Q6: the frame and the budget. -/
theorem test_reqresp_Q6 :
    framesSent (eventsOf (.reqresp 250 0x7A 0 [0x3E]) (active [.err e2] [.ok])) =
      [[0x82, 0x7A, 0x21, 0x3E]] ∧
    receives (eventsOf (.reqresp 250 0x7A 0 [0x3E]) (active [.err e2] [.ok])) = [(18, 350)] :=
  ⟨rfl, rfl⟩

/-! The wire items. -/

theorem test_frame_waits_behind_older_input :
    ((nextOf (exec (.frame 0x82 0x21 0x33 [0xE0] 0x55) (active [.err e2] [])) State.reset).rx).length =
      2 := by rfl
theorem test_keybytes_settle_the_next_answer :
    (nextOf (exec .initKeybytes (idle true true [.err e2])) State.reset).initAnswers =
      [.err e2, .ok 0xD3 0xB0] := by rfl

/-- 30_encoding.md R81. -/
theorem test_pseudo_and_text :
    encode (expandPseudo (.startSlow 0x33 0x21)) = [0x10, 0, 0, 0, 0, 0, 0x33, 0x21] ∧
    encode (expandPseudo (.reqs 1000 [0xB9, 0xF0])) = [0x22, 0x03, 0xE8, 0, 0, 0x02, 0xB9, 0xF0] ∧
    assemblyText (.reqresp 1000 0 0 [185, 240]) = some "REQRESP 1000, 0, 0, [185, 240]" := by
  refine ⟨by decide, by decide, by decide⟩

/-! Witnesses: for every obligation with hypotheses, states and operands that meet them, at the ends of the
ranges its clauses name. -/

/-- Frames of the shortest and the longest length, and the longest that is none. -/
def frame5 : RxImage := ⟨[0x82, 0x21, 0x33, 0xE0, 0x55], by decide⟩
def frame18 : RxImage := ⟨[0x8F, 0x21, 0x33, 1, 2, 3, 4, 5, 6, 7, 8, 9, 10, 11, 12, 13, 14, 0x55], by decide⟩
def bytes4 : RxImage := ⟨[0x82, 0x21, 0x33, 0x55], by decide⟩

/-- The longest payload. -/
def payload14 : List Byte := [1, 2, 3, 4, 5, 6, 7, 8, 9, 10, 11, 12, 13, 14]

/-- One port input waits. -/
def waiting (x : PortInput) (s : State) : State := { s with inbox := [x] }

theorem test_witness_StepRunsTheDecodedInstruction :
    (∃ rest i, (waiting (.packet [0x11]) (active [] [])).inbox = .packet [0x11] :: rest ∧
      decode (.packet [0x11]) = .ok i) ∧
    (∃ rest i, (waiting (.line frame5) State.reset).inbox = .line frame5 :: rest ∧
      decode (.line frame5) = .ok i) ∧
    (∃ rest i, (waiting (.address 0xB3) State.reset).inbox = .address 0xB3 :: rest ∧
      decode (.address 0xB3) = .ok i) ∧
    (∃ rest i, (waiting (.initAnswer (.ok 0xD3 0xB0)) State.reset).inbox =
      .initAnswer (.ok 0xD3 0xB0) :: rest ∧ decode (.initAnswer (.ok 0xD3 0xB0)) = .ok i) :=
  ⟨⟨_, _, rfl, rfl⟩, ⟨_, _, rfl, rfl⟩, ⟨_, _, rfl, rfl⟩, ⟨_, _, rfl, rfl⟩⟩

theorem test_witness_WaitingLeavesEverythingButTimeAlone :
    State.reset.inbox = [] ∧ (active [] []).inbox = [] := ⟨rfl, rfl⟩

theorem test_witness_UndefinedPacketGetsBadCommand :
    (waiting (.packet []) State.reset).inbox = [.packet []] ∧ ¬FitsLayout [] ∧
    (waiting (.packet [0x11, 0x00]) (active [] [])).inbox = [.packet [0x11, 0x00]] ∧
    ¬FitsLayout [0x11, 0x00] ∧ ¬FitsLayout [0x01, 0x33, 0x02] ∧ ¬FitsLayout [0x13] := by
  refine ⟨rfl, ?_, rfl, ?_, ?_, ?_⟩ <;> simp [FitsLayout]

/-- Each layout, the variable ones at `len` 0 and 1, and the mode byte at 0, 1 and 2. -/
theorem test_witness_PacketIsDefinedExactlyByTheLayouts :
    decodePacket [0x01, 0, 0] = .ok (.parity 0 .even) ∧ decodePacket [0x01, 0, 1] = .ok (.parity 0 .odd) ∧
    decodePacket [0x01, 0, 2] = .undefined .reservedMode ∧
    decodePacket [0x20, 0, 0, 0] = .ok (.send 0 0 []) ∧
    decodePacket [0x20, 0, 0, 0, 9] = .undefined .wrongLength ∧
    decodePacket [0x22, 0, 0, 0, 0, 0] = .ok (.reqresp 0 0 0 []) ∧
    decodePacket [0x22, 0, 0, 0, 0, 1] = .undefined .wrongLength := by decide

theorem test_witness_PacketLengthIsFoundFromTheFirstBytes :
    decodePacket [0x01, 0, 0] = .ok (.parity 0 .even) ∧
    decodePacket [0x10, 0, 0, 0, 0, 0, 0, 0] = .ok (.start 0 0 0 0) ∧ decodePacket [0x11] = .ok .stop ∧
    decodePacket [0x12] = .ok .idle ∧ decodePacket [0x20, 0, 0, 1, 9] = .ok (.send 0 0 [9]) ∧
    decodePacket [0x21, 0, 0] = .ok (.recv 0) ∧
    decodePacket [0x22, 0, 0, 0, 0, 1, 9] = .ok (.reqresp 0 0 0 [9]) := by decide

theorem test_witness_DecodingAnEncodedInstructionGivesItBack :
    (Instr.send 1 2 []).wellFormed = true ∧ (Instr.reqresp 3 1 2 payload14).wellFormed = true ∧
    (Instr.frame 0x82 1 2 [3] 4).wellFormed = true ∧ (Instr.frame 0 1 2 payload14 4).wellFormed = true ∧
    (Instr.frameStopsession 1 2 3).wellFormed = true ∧ (Instr.initAddress 127).wellFormed = true := by
  decide

theorem test_witness_OnlyItsOwnEncodingDecodesToAnInstruction :
    decode (.packet [0x12]) = .ok .idle ∧
    decode (.line frame18) = .ok (.frame 0x8F 0x21 0x33 payload14 0x55) ∧
    decode (.address 0x80) = .ok (.initAddress 0) ∧ decode (.initAnswer (.ok 0xD3 0xB0)) = .ok .initKeybytes :=
  ⟨rfl, rfl, rfl, rfl⟩

/-- Bits 0 and 6 are the ends of the low seven; bit 7 is the other clause. -/
theorem test_witness_ParityIsOverTheSevenLowBits :
    (parityByte 0x41 .odd).getLsbD 0 = true ∧ (parityByte 0x41 .odd).getLsbD 6 = true ∧
    (parityByte 0x41 .odd).getLsbD 7 = true ∧ (parityByte 0xC1 .even).getLsbD 7 = false := by decide

theorem test_witness_LengthByteOfTheLegalLengths :
    (lenByte 1).toNat = 0x82 ∧ (lenByte 14).toNat = 0x8F := by decide

theorem test_witness_InitAddressByteIsTheTargetWithOddParity :
    (parityByte 0x80 .odd).getLsbD 0 = (0x80 : Byte).getLsbD 0 ∧
    (parityByte 0x40 .odd).getLsbD 6 = (0x40 : Byte).getLsbD 6 := by decide

theorem test_witness_DecodeFrameUndoesEncodeFrame :
    (1 ≤ [0xAA].length ∧ [0xAA].length ≤ 14) ∧ (1 ≤ payload14.length ∧ payload14.length ≤ 14) := by decide

/-- Each of the three checks, from Idle and from Closed, either capability missing, either flag bit set. -/
theorem test_witness_StartRefusesInTheOrderOfItsChecks :
    (active [] []).fsm = .active ∧
    ((idle false true []).fsm = .idle ∧
      ¬((idle false true []).capFullInit = true ∧ (idle false true []).capCksum = true)) ∧
    ((idle true false []).fsm = .idle ∧
      ¬((idle true false []).capFullInit = true ∧ (idle true false []).capCksum = true)) ∧
    ((closed []).fsm = .closed ∧ (closed []).capFullInit = true ∧ (closed []).capCksum = true ∧
      (1 : Byte).getLsbD 0 = true ∧ (2 : Byte).getLsbD 1 = true) := by decide

theorem test_witness_StartSucceedsWithTheFixedKeyBytes :
    (idle true true [.ok 0xD3 0xB0]).fsm = .idle ∧ (idle true true [.ok 0xD3 0xB0]).capFullInit = true ∧
    (idle true true [.ok 0xD3 0xB0]).capCksum = true ∧ (0xFC : Byte).getLsbD 0 = false ∧
    (0xFC : Byte).getLsbD 1 = false ∧ (idle true true [.ok 0xD3 0xB0]).initAnswers = [.ok 0xD3 0xB0] := by
  decide

/-- One state for each kind of answer. -/
theorem test_witness_StartFollowsTheAnswerOfInitBus :
    (closed [.ok 0xD3 0xB0]).initAnswers.head? = some (.ok 0xD3 0xB0) ∧
    (closed [.ok 0xD3 0xB1]).initAnswers.head? = some (.ok 0xD3 0xB1) ∧
    ¬((0xD3 : Byte) = 0xD3 ∧ (0xB1 : Byte) = 0xB0) ∧
    (closed [.err e9]).initAnswers.head? = some (.err e9) ∧
    (closed [.err e9]).fsm = .closed ∧ (closed [.err e9]).capFullInit = true ∧
    (closed [.err e9]).capCksum = true ∧ (0x00 : Byte).getLsbD 0 = false ∧ (0x00 : Byte).getLsbD 1 = false :=
  by decide

theorem test_witness_StartIgnoresTheHighFlagBits :
    (0xFC : Byte) &&& 0x03 = (0x00 : Byte) &&& 0x03 ∧ (0xFF : Byte) &&& 0x03 = (0x03 : Byte) &&& 0x03 := by
  decide

/-- STOP and IDLE: an active session whose transport fails the send, fails the receive, returns 4 bytes, 5
bytes and 18 bytes. -/
theorem test_witness_StopAlwaysReleasesTheSession :
    (active [] [.err e9]).fsm = .active ∧ (active [] [.err e9]).sess = some sess ∧
    (active [] [.err e9]).sendAnswers.head? = some (.err e9) ∧
    (active [.err e2] [.ok]).sendAnswers.head? = some .ok ∧
    (active [.err e2] [.ok]).rx.head? = some (.err e2) ∧
    (active [.ok bytes4] [.ok]).rx.head? = some (.ok bytes4) ∧ bytes4.bytes.length < 5 ∧
    (active [.ok frame5] [.ok]).rx.head? = some (.ok frame5) ∧ 5 ≤ frame5.bytes.length ∧
    (active [.ok frame18] [.ok]).rx.head? = some (.ok frame18) ∧ 5 ≤ frame18.bytes.length := by decide

theorem test_witness_IdleProbesAndSwallowsErrors :
    (active [.ok bytes4] [.ok]).fsm = .active ∧ (active [.ok bytes4] [.ok]).sess = some sess ∧
    (active [.ok bytes4] [.ok]).rx.head? = some (.ok bytes4) ∧ bytes4.bytes.length < 5 ∧
    (active [.ok frame5] [.ok]).rx.head? = some (.ok frame5) ∧ 5 ≤ frame5.bytes.length ∧
    (active [] [.err e9]).sendAnswers.head? = some (.err e9) := by decide

theorem reset_sessionOk : SessionOk State.reset := ⟨.inl rfl, by decide, by intro ss h; cases h⟩
theorem closed_sessionOk : SessionOk (closed []) := ⟨.inr (.inr rfl), by decide, by intro ss h; cases h⟩
theorem active_sessionOk : SessionOk (active [] []) :=
  ⟨.inr (.inl rfl), by decide, by intro ss h; cases h; decide⟩

theorem test_witness_SessionFamilyOutcomes :
    (SessionOk State.reset ∧ State.reset.fsm ≠ .active) ∧ (SessionOk (closed []) ∧ (closed []).fsm ≠ .active) ∧
    (SessionOk (active [] []) ∧ (active [] []).fsm = .active) :=
  ⟨⟨reset_sessionOk, by decide⟩, ⟨closed_sessionOk, by decide⟩, active_sessionOk, rfl⟩

theorem test_witness_IllegalPayloadLengthIsBadLength :
    (active [] []).fsm = .active ∧ (active [] []).sess = some sess ∧
    ¬(1 ≤ ([] : List Byte).length ∧ ([] : List Byte).length ≤ 14) ∧
    ¬(1 ≤ ((0 : Byte) :: payload14).length ∧ ((0 : Byte) :: payload14).length ≤ 14) := by decide

theorem test_witness_SendTransmitsItsFrame :
    (active [] [.ok]).fsm = .active ∧ (active [] [.ok]).sess = some sess ∧
    (1 ≤ [0xAA].length ∧ [0xAA].length ≤ 14) ∧ (1 ≤ payload14.length ∧ payload14.length ≤ 14) ∧
    (active [] [.ok]).sendAnswers.head? = some .ok ∧ (active [] [.err e9]).sendAnswers.head? = some (.err e9) :=
  by decide

theorem test_witness_RecvReturnsOneRead :
    (active [.err e2] []).fsm = .active ∧ (active [.err e2] []).rx.head? = some (.err e2) ∧
    (active [.ok bytes4] []).rx.head? = some (.ok bytes4) ∧ bytes4.bytes.length < 5 ∧
    (active [.ok frame5] []).rx.head? = some (.ok frame5) ∧ 5 ≤ frame5.bytes.length ∧
    5 ≤ frame18.bytes.length := by decide

theorem test_witness_ReqrespPairsOneSendWithOneReceive :
    (active [.ok frame5] [.ok]).fsm = .active ∧ (active [.ok frame5] [.ok]).sess = some sess ∧
    (active [.ok frame5] [.ok]).sendAnswers.head? = some .ok ∧
    (active [.ok frame5] [.ok]).rx.head? = some (.ok frame5) ∧
    (active [] [.err e9]).sendAnswers.head? = some (.err e9) ∧
    (1 ≤ [0xAA].length ∧ [0xAA].length ≤ 14) ∧ (1 ≤ payload14.length ∧ payload14.length ≤ 14) := by decide

/-- Two frames of 5 bytes that differ in the first and the last byte only. -/
theorem test_witness_RecvIgnoresLengthAndChecksumBytes :
    (active [] []).fsm = .active ∧
    ∃ g : RxImage, frame5.bytes.length = g.bytes.length ∧ g ≠ frame5 ∧
      ∀ k, 1 ≤ k → k + 1 < frame5.bytes.length → frame5.bytes[k]? = g.bytes[k]? := by
  refine ⟨rfl, ⟨[0x00, 0x21, 0x33, 0xE0, 0xFF], by decide⟩, rfl, by decide, ?_⟩
  intro k h1 h2
  have h3 : k + 1 < 5 := h2
  obtain rfl | rfl | rfl : k = 1 ∨ k = 2 ∨ k = 3 := by omega
  all_goals rfl

theorem test_witness_LoopbackGivesThePayloadBack :
    (active [] [.ok]).fsm = .active ∧ (active [] [.ok]).sess = some sess ∧
    (active [] [.ok]).sendAnswers = [.ok] ∧ (1 ≤ payload14.length ∧ payload14.length ≤ 14) ∧
    (⟨[0x8F, 0x7A, 0xF1, 1, 2, 3, 4, 5, 6, 7, 8, 9, 10, 11, 12, 13, 14, 0x55], by decide⟩ : RxImage).bytes =
      frameOf sess 0x7A 0xF1 payload14 ++ [0x55] ∧
    (⟨[0x82, 0x33, 0x21, 0xAA, 0x55], by decide⟩ : RxImage).bytes = frameOf sess 0 0 [0xAA] ++ [0x55] := by
  decide

/-- Each command in each FSM state in which it is refused. -/
theorem test_witness_IllegalCommandGetsBadState :
    legalIn (.start 0 0 0 0) .active = false ∧ legalIn .stop .idle = false ∧ legalIn .idle .closed = false ∧
    legalIn (.send 0 0 []) .idle = false ∧ legalIn (.recv 0) .closed = false ∧
    legalIn (.reqresp 0 0 0 []) .idle = false ∧ legalIn (.start 0 0 0 0) .initializing = false ∧
    legalIn .stop .stopping = false := by decide

theorem test_witness_LegalCommandNeverGetsBadState :
    (legalIn (.parity 0 .odd) .active = true ∧ ∃ t, exec (.parity 0 .odd) (active [] []) = .next t) ∧
    (legalIn (.start 0 0 0 0) .idle = true ∧ ∃ t, exec (.start 0 0 0 0) (idle true true []) = .next t) ∧
    (legalIn .stop .active = true ∧ ∃ t, exec .stop (active [] []) = .next t) ∧
    (legalIn .idle .active = true ∧ ∃ t, exec .idle (active [] []) = .next t) ∧
    (legalIn (.send 0 0 []) .active = true ∧ ∃ t, exec (.send 0 0 []) (active [] []) = .next t) ∧
    (legalIn (.recv 0) .active = true ∧ ∃ t, exec (.recv 0) (active [] []) = .next t) ∧
    (legalIn (.reqresp 0 0 0 []) .active = true ∧
      ∃ t, exec (.reqresp 0 0 0 []) (active [] []) = .next t) :=
  ⟨⟨rfl, _, rfl⟩, ⟨rfl, _, rfl⟩, ⟨rfl, _, rfl⟩, ⟨rfl, _, rfl⟩, ⟨rfl, _, rfl⟩, ⟨rfl, _, rfl⟩, ⟨rfl, _, rfl⟩⟩

/-- Each clause: the two errors that close the block, the precondition errors, and errors of a session's
commands with the block left alone. -/
theorem test_witness_ErrorsChangeOnlyWhatTheTableSays :
    (∃ t, exec (.start 0 0 0x33 0x21) (closed [.ok 0x53 0x30]) = .next t ∧
      t.responses = (closed [.ok 0x53 0x30]).responses ++ [[0x05]]) ∧
    (∃ t, exec (.start 0 0 0x33 0x21) (closed [.err e9]) = .next t ∧
      t.responses = (closed [.err e9]).responses ++ [[0x06, 0x09]]) ∧
    (∃ t, exec (.start 0 0 0x33 0x21) (idle false true []) = .next t ∧
      t.responses = (idle false true []).responses ++ [[0x03]]) ∧
    (∃ t, exec (.start 1 0 0x33 0x21) (closed []) = .next t ∧
      t.responses = (closed []).responses ++ [[0x04]]) ∧
    (∃ t, exec (.send 0 0 []) (active [] []) = .next t ∧
      t.responses = (active [] []).responses ++ [[0x01]]) ∧
    (∃ t, exec (.recv 0) (active [.err e2] []) = .next t ∧
      t.responses = (active [.err e2] []).responses ++ [[0x06, 0x02]]) ∧
    (∃ t, exec (.recv 0) (closed []) = .next t ∧ t.responses = (closed []).responses ++ [[0x0E]]) := by
  refine ⟨⟨_, rfl, test_start_S4_S6_S16_S10.2.2.2⟩, ⟨_, rfl, ?_⟩, ⟨_, rfl, rfl⟩, ⟨_, rfl, rfl⟩,
    ⟨_, rfl, rfl⟩, ⟨_, rfl, rfl⟩, ⟨_, rfl, rfl⟩⟩
  rw [handshake_err _ _ _ _ e9 (beforeInit_answer _ _ _ _ _ rfl)]
  simp only [State.raise_responses, State.release_responses, afterInit, beforeInit,
    State.perform_responses, performAll_responses]
  rfl

/-- Idle and Closed between two commands; registers filled or not while FSM is not Active; the fault. -/
theorem test_witness_NoSessionRegisterIsReadWithoutASession :
    (SessionOk State.reset ∧ State.reset.sess = none) ∧ (SessionOk (closed []) ∧ (closed []).sess = none) ∧
    (closed []).fsm ≠ .active ∧
    (readsSession .stop = true ∧ ({ State.reset with fsm := .active } : State).fsm = .active ∧
      ({ State.reset with fsm := .active } : State).sess = none) :=
  ⟨⟨reset_sessionOk, rfl⟩, ⟨closed_sessionOk, rfl⟩, by decide, rfl, rfl, rfl⟩

theorem test_witness_FrameOnTheLineWaits :
    (1 ≤ [(0xE0 : Byte)].length ∧ [(0xE0 : Byte)].length ≤ 14) ∧
    (1 ≤ payload14.length ∧ payload14.length ≤ 14) := by decide

/-- One input of each kind that is no instruction. -/
theorem test_witness_OtherInputsActOnTheOutsideOnly :
    decode (.line bytes4) = .undefined .notAFrame ∧ decode (.address 0x33) = .undefined .notAnAddress ∧
    decode (.initAnswer (.ok 0x08 0x08)) = .undefined .notTheKeyBytes ∧
    decode (.initAnswer (.err e2)) = .undefined .notTheKeyBytes ∧
    decode (.sendAnswer .ok) = .undefined .noEncoding ∧
    decode (.receiveError e2) = .undefined .noEncoding ∧
    decode (.capabilities false true) = .undefined .noEncoding ∧
    (waiting (.capabilities false true) State.reset).inbox = [.capabilities false true] := by decide

theorem test_witness_ResetLeavesIdleAndNoSession :
    (waiting .reset (active [] [])).inbox = [.reset] := rfl

/-- The reset strikes before the first event (k = 0), or after the last of five; an undefined packet. -/
theorem test_witness_ResetDuringACommandAbandonsIt :
    (∃ full, exec .stop ((waiting (.resetDuring [0x11] 0) (active [.err e2] [.ok])).fetched []) = .next full ∧
      decodePacket [0x11] = .ok .stop ∧
      (waiting (.resetDuring [0x11] 0) (active [.err e2] [.ok])).inbox = [.resetDuring [0x11] 0] ∧
      full.trace.length ≤ (active [.err e2] [.ok]).trace.length + 5) ∧
    (waiting (.resetDuring [0xFF] 0) (active [] [])).inbox = [.resetDuring [0xFF] 0] ∧
    decodePacket [0xFF] = .undefined .undefinedOpcode :=
  ⟨⟨_, rfl, rfl, rfl, by decide⟩, rfl, rfl⟩

/-- 70_reset_and_hazards.md R181: after the send of an IDLE the reset leaves the input that waits, and before it
also the answer. -/
theorem test_reset_during_idle_leaves_the_transport :
    (nextOf (step (waiting (.resetDuring [0x12] 2) (active [.err e2] [.ok]))) State.reset).rx = [.err e2] ∧
    (nextOf (step (waiting (.resetDuring [0x12] 2) (active [.err e2] [.ok]))) State.reset).sendAnswers = [] ∧
    (nextOf (step (waiting (.resetDuring [0x12] 1) (active [.err e2] [.ok]))) State.reset).sendAnswers =
      [.ok] := ⟨rfl, rfl, rfl⟩

/-- The shortest and the longest message response, and one byte beyond either (R74, R28). -/
theorem test_witness_EachCommandAnswersInItsOwnShape :
    (∃ t, exec (.recv 0) (active [.ok frame5] []) = .next t) ∧
    MessageAnswer ([0x00, 0x21, 0x33, 0x01, 0xE0] ++ be32 0x12345) ∧
    MessageAnswer ([0x00, 0x21, 0x33, 0x0E] ++ payload14 ++ be32 0) ∧
    ¬MessageAnswer ([0x00, 0x21, 0x33, 0x00] ++ be32 0) ∧
    SessionAnswer 0x21 0x33 10400 [0x00, 0x21, 0x33, 0x00, 0x00, 0x28, 0xA0, 0xD3, 0xB0] := by
  refine ⟨⟨_, rfl⟩, ⟨0x21, 0x33, [0xE0], 0x12345, by decide, by decide, rfl⟩,
    ⟨0x21, 0x33, payload14, 0, by decide, by decide, rfl⟩, ?_, by decide, by decide⟩
  rintro ⟨dest, src, payload, time, h, -, hp⟩
  have hl := congrArg List.length hp
  simp only [be32, List.length_append, List.length_cons, List.length_nil] at hl
  omega

/-- The four invariants hold of an active session too, and a command runs from it. -/
theorem test_witness_StepKeepsTheInvariants :
    SessionOk (waiting (.packet [0x12]) (active [] [])) ∧ TraceOk (waiting (.packet [0x12]) (active [] [])) ∧
    TimeOk (waiting (.packet [0x12]) (active [] [])) ∧ ResponsesOk (waiting (.packet [0x12]) (active [] [])) ∧
    ∃ t, step (waiting (.packet [0x12]) (active [] [])) = .next t :=
  ⟨⟨.inr (.inl rfl), by decide, by intro ss h; cases h; decide⟩,
    by simp [TraceOk, waiting, active, State.reset], by simp [TimeOk, waiting, active, State.reset],
    by simp [ResponsesOk, waiting, active, State.reset], ⟨_, rfl⟩⟩

theorem test_witness_EveryStepFromAConsistentStateGoesOn :
    SessionOk State.reset ∧ SessionOk (closed []) ∧ SessionOk (active [] []) :=
  ⟨reset_sessionOk, closed_sessionOk, active_sessionOk⟩

/-- EveryCommandGivesOneResponse, CommandsLastAtLeastAsLongAsTheirWaits, HistoryOnlyGrows. -/
theorem test_witness_instructions_complete :
    (∃ t, exec (.parity 0 .even) State.reset = .next t ∧ isCommand (.parity 0 .even) = true) ∧
    (∃ t, exec .initKeybytes State.reset = .next t ∧ isCommand .initKeybytes = false) ∧
    (∃ t, exec .stop (active [] [.err e9]) = .next t) ∧ (∃ t, step State.reset = .next t) :=
  ⟨⟨_, rfl, rfl⟩, ⟨_, rfl, rfl⟩, ⟨_, rfl⟩, ⟨_, rfl⟩⟩

theorem test_witness_OnlyStartAndStopMoveTheFsm :
    ∃ t, exec .stop (active [.ok frame5] [.ok]) = .next t ∧ ¬SameBlock (active [.ok frame5] [.ok]) t :=
  ⟨_, rfl, by intro h; exact absurd h.1 (by decide)⟩

/-- A START that reaches `T.initBus`; SEND and REQRESP with a legal payload; STOP unanswered; IDLE. -/
theorem test_witness_LowerBoundsOnDurations :
    (∃ t, exec (.start 0 0 0x33 0x21) (closed [.err e9]) = .next t ∧
      Event.initBus .slow5Baud 0xB3 (.err e9) ∈ newEvents (closed [.err e9]) t) ∧
    (∃ t, exec (.send 0 0 [0x3E]) (active [] [.ok]) = .next t ∧ (active [] [.ok]).fsm = .active) ∧
    (∃ t, exec (.reqresp 0 0 0 payload14) (active [.err e2] [.ok]) = .next t) ∧
    (∃ t, exec .stop (active [.err e2] [.ok]) = .next t ∧
      Event.warn .stopNotAcknowledged ∈ newEvents (active [.err e2] [.ok]) t) ∧
    (∃ t, exec .idle (active [] [.err e9]) = .next t) := by
  refine ⟨⟨_, rfl, ?_⟩, ⟨_, rfl, rfl⟩, ⟨_, rfl⟩, ⟨_, rfl, ?_⟩, ⟨_, rfl⟩⟩
  · rw [handshake_err _ _ _ _ e9 (beforeInit_answer _ _ _ _ _ rfl)]
    simp only [newEvents, State.raise_events, State.release_events, afterInit, State.perform_events,
      beforeInit_answer 0 0x33 0x21 (closed [.err e9]) (.err e9) rfl]
    exact List.mem_append_right _ (List.mem_singleton.2 rfl)
  · exact .tail _ (.tail _ (.tail _ (.head _)))

end Sys2Proof.Tests
end

section
/-! SUPPORT. What a step can do and what an instruction can do, said once, as inversion lemmas; and the
rule by which a predicate kept by the parts of a step is kept by every step. -/

namespace Sys2Proof.Machine

/-! Runs of events that are legal in the FSM state in which they happen. -/

/-- `u` is `s` after a run of events, each of them one the rules allow in the FSM state of `s`. -/
def LegalRun (s u : State) : Prop := ∃ es, (∀ e ∈ es, EventOk s.fsm e) ∧ u = performAll es s

theorem LegalRun.refl (s : State) : LegalRun s s := ⟨[], by simp, rfl⟩

theorem LegalRun.fsm_eq {s u : State} (h : LegalRun s u) : u.fsm = s.fsm := by
  obtain ⟨es, -, rfl⟩ := h
  exact performAll_fsm es s

theorem LegalRun.sess_eq {s u : State} (h : LegalRun s u) : u.sess = s.sess := by
  obtain ⟨es, -, rfl⟩ := h
  exact performAll_sess es s

theorem LegalRun.trans {s u v : State} (h : LegalRun s u) (h' : LegalRun u v) : LegalRun s v := by
  have hfsm := h.fsm_eq
  obtain ⟨es, hes, rfl⟩ := h
  obtain ⟨fs, hfs, rfl⟩ := h'
  refine ⟨es ++ fs, fun e he => ?_, (performAll_append es fs s).symm⟩
  rcases List.mem_append.1 he with he | he
  · exact hes e he
  · exact hfsm ▸ hfs e he

theorem LegalRun.perform {s u : State} (h : LegalRun s u) {e : Event} (he : EventOk s.fsm e) :
    LegalRun s (u.perform e) :=
  h.trans ⟨[e], by simpa [h.fsm_eq] using he, rfl⟩

/-- Only START sets the line (41_session.md R105), and it does so in Initializing. -/
theorem EventOk.lineAfter_eq {f : Fsm} {e : Event} (he : EventOk f e) (hf : f ≠ .initializing)
    (line : Option LineConfig) : e.lineAfter line = line := by
  cases e with
  | configure bitrate dataBits stopBits parity => exact absurd he.1 hf
  | flushInput | initBus _ _ _ | send _ _ _ | receive _ _ _ | wait _ | now _ | warn _ => rfl

theorem LegalRun.line_eq {s u : State} (h : LegalRun s u) (hf : s.fsm ≠ .initializing) :
    u.line = s.line := by
  obtain ⟨es, hes, rfl⟩ := h
  induction es generalizing s with
  | nil => rfl
  | cons e es ih =>
    rw [List.forall_mem_cons] at hes
    calc (performAll es (s.perform e)).line
      _ = (s.perform e).line := ih (s := s.perform e) hf hes.2
      _ = s.line := hes.1.lineAfter_eq hf s.line

theorem traceOk_performAs {s : State} (h : TraceOk s) {f : Fsm} {e : Event} (he : EventOk f e) :
    TraceOk (s.performAs f e) := by
  intro entry hmem
  rcases List.mem_append.1 hmem with hmem | hmem
  · exact h entry hmem
  · rw [List.mem_singleton.1 hmem]
    exact he

theorem LegalRun.traceOk {s u : State} (h : LegalRun s u) (hs : TraceOk s) : TraceOk u := by
  obtain ⟨es, hes, rfl⟩ := h
  induction es generalizing s with
  | nil => exact hs
  | cons e es ih =>
    rw [List.forall_mem_cons] at hes
    exact ih (s := s.perform e) (traceOk_performAs hs hes.1) hes.2

/-! The internal procedures are legal runs while FSM is Active or Stopping. -/

/-- The frame of a legal message obeys the length law (10_state.md R28, 30_encoding.md R61). -/
theorem sentFrameOk_encodeFrame (m : OutMessage) (ss : Session)
    (h : 1 ≤ m.payload.length ∧ m.payload.length ≤ 14) : SentFrameOk (encodeFrame m ss) := by
  have hlen : (encodeFrame m ss).length = m.payload.length + 3 := by simp [encodeFrame, txImage]
  refine ⟨by omega, by omega, ?_⟩
  rw [hlen, Nat.add_sub_cancel]
  rfl

section
variable {s : State} (hf : s.fsm = .active ∨ s.fsm = .stopping)
include hf

theorem legalRun_sendEvents {tx : List Byte} (htx : SentFrameOk tx) (r : SendAnswer) :
    LegalRun s (performAll (sendEvents tx r) s) := by
  have hwait : EventOk s.fsm (.wait Config.msgGapMs.toNat) := by
    rcases hf with hf | hf <;> simp [EventOk, hf]
  exact ((LegalRun.refl s).perform hwait).perform ⟨hf, rfl, htx⟩

theorem legalRun_framerSend (ss : Session) (m : OutMessage) : LegalRun s (framerSend ss m s).2 := by
  by_cases hl : 1 ≤ m.payload.length ∧ m.payload.length ≤ 14
  · have hrun := legalRun_sendEvents hf (sentFrameOk_encodeFrame m ss hl)
    rw [framerSend_legal ss m s hl]
    cases h : answerToSend s with
    | ok => rw [transmit_ok _ s h]; exact hrun .ok
    | err e => rw [transmit_err _ s e h]; exact hrun (.err e)
  · rw [framerSend_badLength ss m s hl]
    exact LegalRun.refl s

/-- A receive has at most the greatest timeout, and that of the control exchange while FSM is Stopping
(42_framer.md R125, 41_session.md R112). -/
theorem legalRun_framerReceive {tmo : Nat} (hmax : tmo ≤ 65535) (hstop : s.fsm = .stopping → tmo = 1000) :
    LegalRun s (framerReceive tmo s).2 := by
  have hreceive (q : RecvAnswer) : LegalRun s (s.perform (.receive 18 (tmo + 100) q)) :=
    (LegalRun.refl s).perform
      ⟨hf, rfl, by omega, by omega, fun h => by rw [hstop h]⟩
  obtain ⟨e, -, he⟩ | ⟨rx, -, -, he⟩ | ⟨rx, -, -, he⟩ := framerReceive_cases tmo s
  · rw [he]; exact hreceive _
  · rw [he]; exact hreceive _
  · rw [he]; exact (hreceive _).perform hf

theorem legalRun_reqResp (ss : Session) (m : OutMessage) {tmo : Nat} (hmax : tmo ≤ 65535)
    (hstop : s.fsm = .stopping → tmo = 1000) : LegalRun s (reqResp ss m tmo s).2 := by
  have hsend := legalRun_framerSend hf ss m
  unfold reqResp
  split
  · next heq => rwa [heq] at hsend
  · next heq =>
    rw [heq] at hsend
    have hfsm := hsend.fsm_eq
    exact hsend.trans (legalRun_framerReceive (hfsm ▸ hf) hmax (hfsm ▸ hstop))

end

/-! The handshake. -/

theorem effectiveBitrate_ne_zero (b : Word32) : effectiveBitrate b ≠ 0 := by
  unfold effectiveBitrate
  split
  · decide
  · assumption

/-- START's events up to `T.initBus` are a legal run in Initializing (41_session.md R103 to R107). -/
theorem legalRun_afterInit (bitrate : Word32) (target source : Byte) (s : State) :
    LegalRun ((s.setFsm .initializing).setSession (newSession bitrate target source s.draws))
      (afterInit bitrate target source s) := by
  have hstart : ∀ e ∈ startEvents bitrate source, EventOk .initializing e := by
    have hb := effectiveBitrate_ne_zero bitrate
    by_cases hsrc : source = Config.testerAddr <;>
      simpa [startEvents, sourceWarning, hsrc, EventOk] using hb
  have hinit (r : InitAnswer) :
      EventOk .initializing (.initBus .slow5Baud (parityByte target .odd) r) :=
    ⟨rfl, parityByte_idem target .odd⟩
  exact LegalRun.perform ⟨startEvents bitrate source, hstart, rfl⟩ (hinit _)

theorem afterInit_line (bitrate : Word32) (target source : Byte) (s : State) :
    (afterInit bitrate target source s).line = some ⟨effectiveBitrate bitrate, 8, 1, .none⟩ := by
  by_cases hsrc : source = Config.testerAddr <;>
    simp [afterInit, beforeInit, startEvents, sourceWarning, hsrc, Event.lineAfter]

/-- The session that START leaves on success (41_session.md R103, R104, R109). -/
def startedSession (bitrate : Word32) (target source : Byte) : Session :=
  ⟨source, target, effectiveBitrate bitrate, 0xD3, 0xB0⟩

/-- A handshake ends in one of two ways: released with an error, or Active with its session (41_session.md
R109, R110). -/
theorem handshake_cases (bitrate : Word32) (target source : Byte) (s : State) :
    (∃ k, handshake bitrate target source s = (afterInit bitrate target source s).release.raise k) ∨
    ∃ p, handshake bitrate target source s = (((afterInit bitrate target source s).setSession
      (startedSession bitrate target source)).setFsm .active).respond p := by
  cases hr : (beforeInit bitrate target source s).initAnswer with
  | err e => exact .inl ⟨_, handshake_err bitrate target source s e hr⟩
  | ok kb1 kb2 =>
    rw [handshake_ok bitrate target source s kb1 kb2 hr]
    by_cases hk : kb1 = 0xD3 ∧ kb2 = 0xB0
    · obtain ⟨rfl, rfl⟩ := hk
      exact .inr ⟨_, checkKeyBytes_match bitrate target source _⟩
    · exact .inl ⟨_, checkKeyBytes_mismatch bitrate target source kb1 kb2 _ hk⟩

theorem handshake_fsm (bitrate : Word32) (target source : Byte) (s : State) :
    (handshake bitrate target source s).fsm = .active ∨
      (handshake bitrate target source s).fsm = .closed := by
  obtain ⟨k, h⟩ | ⟨p, h⟩ := handshake_cases bitrate target source s
  · rw [h]; exact .inr rfl
  · rw [h]; exact .inl rfl

/-- The handshake neither reads nor keeps the session that was there (41_session.md R103). -/
theorem handshake_setSess (bitrate : Word32) (target source : Byte) (s : State) (x : Option Session) :
    handshake bitrate target source { s with sess := x } = handshake bitrate target source s := rfl

/-! What an instruction that goes on can do. -/

/-- The ways an instruction can go on: a command that leaves FSM and the session alone makes a legal run of
events and gives a response (the run is empty for PARITY and every refusal); START past its checks is the
handshake; STOP's exchange is a legal run in Stopping, after which the session is released; a wire item adds
to what the transport holds or does nothing. -/
inductive Completes (i : Instr) (s : State) : State → Prop
  | answers {u : State} (hrun : LegalRun s u) (p : List Byte) : Completes i s (u.respond p)
  | starts (flags : Byte) (bitrate : Word32) (target source : Byte)
      (hi : i = .start flags bitrate target source) (hs : s.fsm = .idle ∨ s.fsm = .closed) :
      Completes i s (handshake bitrate target source s)
  | stops {u : State} (hi : i = .stop) (hs : s.fsm = .active) (hrun : LegalRun (s.setFsm .stopping) u)
      (p : List Byte) : Completes i s (u.release.respond p)
  | arrives (rx : RxImage) : Completes i s (s.arrive rx)
  | settles (r : InitAnswer) : Completes i s (s.settleInit r)
  | passes : Completes i s s

theorem Completes.refuses (i : Instr) (s : State) (k : CmdError) : Completes i s (s.raise k) :=
  .answers (LegalRun.refl s) _

theorem LegalRun.completes_finishSend {i : Instr} {s : State} {r : Except CmdError Unit × State}
    (h : LegalRun s r.2) : Completes i s (finishSend r) := by
  obtain ⟨_ | _, u⟩ := r
  · exact .answers h _
  · exact .answers h _

theorem LegalRun.completes_finishMessage {i : Instr} {s : State} {r : Except CmdError InMessage × State}
    (h : LegalRun s r.2) : Completes i s (finishMessage r) := by
  obtain ⟨_ | _, u⟩ := r
  · exact .answers h _
  · exact .answers h _

/-- STOP without an answer warns and waits, still in Stopping, before it releases the session (41_session.md
R112). -/
theorem LegalRun.completes_finishStop {s : State} {r : Except CmdError InMessage × State}
    (hs : s.fsm = .active) (h : LegalRun (s.setFsm .stopping) r.2) : Completes .stop s (finishStop r) := by
  obtain ⟨k | m, u⟩ := r
  · have hwarn : EventOk (s.setFsm .stopping).fsm (.warn .stopNotAcknowledged) := rfl
    have hwait : EventOk (s.setFsm .stopping).fsm (.wait tStopFallbackMs) := .inr (.inr ⟨rfl, .inr rfl⟩)
    exact .stops rfl hs ((h.perform hwarn).perform hwait) _
  · exact .stops rfl hs h _

/-- START is refused with nothing done, or past its checks it is the handshake (41_session.md R100 to
R102). -/
theorem execStart_cases (flags : Byte) (bitrate : Word32) (target source : Byte) (s : State) :
    (∃ k, execStart flags bitrate target source s = .next (s.raise k)) ∨
    ((s.fsm = .idle ∨ s.fsm = .closed) ∧
      execStart flags bitrate target source s = .next (handshake bitrate target source s)) := by
  by_cases hf : s.fsm = .idle ∨ s.fsm = .closed
  · by_cases hc : s.capFullInit = true ∧ s.capCksum = true
    · by_cases hi : initType flags = 0
      · exact .inr ⟨hf, execStart_handshake flags bitrate target source s hf hc hi⟩
      · exact .inl ⟨_, execStart_otherInit flags bitrate target source s hf hc hi⟩
    · exact .inl ⟨_, execStart_noCapability flags bitrate target source s hf hc⟩
  · exact .inl ⟨_, execStart_badState flags bitrate target source s hf⟩

theorem execStart_completes (flags : Byte) (bitrate : Word32) (target source : Byte) {s t : State}
    (h : execStart flags bitrate target source s = .next t) :
    Completes (.start flags bitrate target source) s t := by
  obtain ⟨k, hk⟩ | ⟨hf, hh⟩ := execStart_cases flags bitrate target source s
  · cases hk.symm.trans h
    exact .refuses _ s k
  · cases hh.symm.trans h
    exact .starts flags bitrate target source rfl hf

theorem execStop_completes {s t : State} (h : execStop s = .next t) : Completes .stop s t := by
  by_cases hf : s.fsm = .active
  · cases hs : s.sess with
    | none => cases (execStop_absent s hf hs).symm.trans h
    | some ss =>
      cases (execStop_active s ss hf hs).symm.trans h
      have hrun := legalRun_reqResp (s := s.setFsm .stopping) (.inr rfl) ss (controlMessage ctlStop)
        (tmo := tCtlMs) (by decide) fun _ => rfl
      exact hrun.completes_finishStop hf
  · cases (execStop_refused s hf).symm.trans h
    exact .refuses _ s _

/-- While FSM is Active a control exchange or a REQRESP may have any timeout (43_reqresp.md R146). -/
theorem legalRun_reqResp_active {s : State} (hf : s.fsm = .active) (ss : Session) (m : OutMessage)
    {tmo : Nat} (hmax : tmo ≤ 65535) : LegalRun s (reqResp ss m tmo s).2 :=
  legalRun_reqResp (.inl hf) ss m hmax fun h => by simp [hf] at h

theorem timeout_le (timeout : Timeout) : timeout.toNat ≤ 65535 := Nat.le_of_lt_succ timeout.isLt

theorem execIdle_completes {s t : State} (h : execIdle s = .next t) : Completes .idle s t := by
  by_cases hf : s.fsm = .active
  · cases hs : s.sess with
    | none => cases (execIdle_absent s hf hs).symm.trans h
    | some ss =>
      cases (execIdle_active s ss hf hs).symm.trans h
      exact .answers (legalRun_reqResp_active hf ss _ (by decide)) _
  · cases (execIdle_refused s hf).symm.trans h
    exact .refuses _ s _

theorem execSend_completes (dest src : Byte) (payload : List Byte) {s t : State}
    (h : execSend dest src payload s = .next t) : Completes (.send dest src payload) s t := by
  by_cases hf : s.fsm = .active
  · cases hs : s.sess with
    | none => cases (execSend_absent s dest src payload hf hs).symm.trans h
    | some ss =>
      cases (execSend_active s ss dest src payload hf hs).symm.trans h
      exact (legalRun_framerSend (.inl hf) ss _).completes_finishSend
  · cases (execSend_refused s dest src payload hf).symm.trans h
    exact .refuses _ s _

theorem execRecv_completes (timeout : Timeout) {s t : State} (h : execRecv timeout s = .next t) :
    Completes (.recv timeout) s t := by
  by_cases hf : s.fsm = .active
  · cases (execRecv_active s timeout hf).symm.trans h
    exact (legalRun_framerReceive (.inl hf) (timeout_le timeout)
      fun hstop => by simp [hf] at hstop).completes_finishMessage
  · cases (execRecv_refused s timeout hf).symm.trans h
    exact .refuses _ s _

theorem execReqresp_completes (timeout : Timeout) (dest src : Byte) (payload : List Byte) {s t : State}
    (h : execReqresp timeout dest src payload s = .next t) :
    Completes (.reqresp timeout dest src payload) s t := by
  by_cases hf : s.fsm = .active
  · cases hs : s.sess with
    | none => cases (execReqresp_absent s dest src payload timeout hf hs).symm.trans h
    | some ss =>
      cases (execReqresp_active s ss dest src payload timeout hf hs).symm.trans h
      exact (legalRun_reqResp_active hf ss _ (timeout_le timeout)).completes_finishMessage
  · cases (execReqresp_refused s dest src payload timeout hf).symm.trans h
    exact .refuses _ s _

/-- An instruction that goes on does so in one of the ways of `Completes`. -/
theorem exec_completes {i : Instr} {s t : State} (h : exec i s = .next t) : Completes i s t := by
  cases i with
  | parity value mode => cases h; exact .answers (LegalRun.refl s) _
  | start flags bitrate target source => exact execStart_completes flags bitrate target source h
  | stop => exact execStop_completes h
  | idle => exact execIdle_completes h
  | send dest src payload => exact execSend_completes dest src payload h
  | recv timeout => exact execRecv_completes timeout h
  | reqresp timeout dest src payload => exact execReqresp_completes timeout dest src payload h
  | frame len da sa payload ck => cases h; exact .arrives _
  | frameStopsession da sa ck => cases h; exact .arrives _
  | frameKeepalive da sa ck => cases h; exact .arrives _
  | initAddress a => cases h; exact .passes
  | initKeybytes => cases h; exact .settles _

/-! When an instruction goes on, and when it faults. -/

/-- Without a session while FSM is Active, the commands that need its addresses fault (assumption log 13). -/
theorem exec_fault_of_absent {i : Instr} {s : State} (hi : readsSession i = true) (hf : s.fsm = .active)
    (hs : s.sess = none) : exec i s = .fault .sessionAbsent := by
  cases i with
  | stop => exact execStop_absent s hf hs
  | idle => exact execIdle_absent s hf hs
  | send dest src payload => exact execSend_absent s dest src payload hf hs
  | reqresp timeout dest src payload => exact execReqresp_absent s dest src payload timeout hf hs
  | parity _ _ | start _ _ _ _ | recv _ | frame _ _ _ _ _ | frameStopsession _ _ _
  | frameKeepalive _ _ _ | initAddress _ | initKeybytes => cases hi

theorem execStart_goes_on (flags : Byte) (bitrate : Word32) (target source : Byte) (s : State) :
    ∃ t, execStart flags bitrate target source s = .next t := by
  obtain ⟨k, hk⟩ | ⟨-, hh⟩ := execStart_cases flags bitrate target source s
  · exact ⟨_, hk⟩
  · exact ⟨_, hh⟩

theorem execRecv_goes_on (timeout : Timeout) (s : State) : ∃ t, execRecv timeout s = .next t := by
  by_cases hf : s.fsm = .active
  · exact ⟨_, execRecv_active s timeout hf⟩
  · exact ⟨_, execRecv_refused s timeout hf⟩

/-- A command of a session goes on when it does so with a session and when it is refused. -/
theorem goes_on_of_session {s : State} {o : Host.Outcome State Fault Refusal}
    (hsess : s.fsm = .active → s.sess ≠ none)
    (hactive : s.fsm = .active → ∀ ss, s.sess = some ss → ∃ t, o = .next t)
    (hrefused : s.fsm ≠ .active → ∃ t, o = .next t) : ∃ t, o = .next t := by
  by_cases hf : s.fsm = .active
  · obtain ⟨ss, hs⟩ := Option.ne_none_iff_exists'.1 (hsess hf)
    exact hactive hf ss hs
  · exact hrefused hf

/-- An instruction goes on unless it needs the addresses of a session that is not there. -/
theorem exec_goes_on {i : Instr} {s : State}
    (h : readsSession i = true → s.fsm = .active → s.sess ≠ none) : ∃ t, exec i s = .next t := by
  cases i with
  | start flags bitrate target source => exact execStart_goes_on flags bitrate target source s
  | stop =>
    exact goes_on_of_session (h rfl) (fun hf ss hs => ⟨_, execStop_active s ss hf hs⟩)
      fun hf => ⟨_, execStop_refused s hf⟩
  | idle =>
    exact goes_on_of_session (h rfl) (fun hf ss hs => ⟨_, execIdle_active s ss hf hs⟩)
      fun hf => ⟨_, execIdle_refused s hf⟩
  | send dest src payload =>
    exact goes_on_of_session (h rfl) (fun hf ss hs => ⟨_, execSend_active s ss dest src payload hf hs⟩)
      fun hf => ⟨_, execSend_refused s dest src payload hf⟩
  | recv timeout => exact execRecv_goes_on timeout s
  | reqresp timeout dest src payload =>
    exact goes_on_of_session (h rfl)
      (fun hf ss hs => ⟨_, execReqresp_active s ss dest src payload timeout hf hs⟩)
      fun hf => ⟨_, execReqresp_refused s dest src payload timeout hf⟩
  | parity _ _ | frame _ _ _ _ _ | frameStopsession _ _ _ | frameKeepalive _ _ _ | initAddress _
  | initKeybytes => exact ⟨_, rfl⟩

/-- The one fault, and exactly when it is raised (assumption log 13). -/
theorem exec_fault_iff (i : Instr) (s : State) (why : Fault) :
    exec i s = .fault why ↔ readsSession i = true ∧ s.fsm = .active ∧ s.sess = none := by
  constructor
  · intro h
    by_contra hn
    obtain ⟨t, ht⟩ := exec_goes_on (i := i) (s := s) fun hi hf hs => hn ⟨hi, hf, hs⟩
    cases ht.symm.trans h
  · rintro ⟨hi, hf, hs⟩
    cases why
    exact exec_fault_of_absent hi hf hs

/-! What a step can do. -/

theorem step_nil {s : State} (h : s.inbox = []) : step s = .next (s.fetched []) := by
  simp only [step, takeNext, h]

theorem step_cons {s : State} {x : PortInput} {rest : List PortInput} (h : s.inbox = x :: rest) :
    step s = takeInput x (s.fetched rest) := by
  simp only [step, takeNext, h]

theorem takeInput_ok {x : PortInput} {i : Instr} (h : decode x = .ok i) (s : State) :
    takeInput x s = exec i s := by
  simp only [takeInput, h]

theorem takeInput_undefined {x : PortInput} {why : DecodeError} (h : decode x = .undefined why)
    (s : State) : takeInput x s = actOn x s := by
  simp only [takeInput, h]

/-- What the state is when reset strikes after the first `events` events of a command that would end in
`full` (70_reset_and_hazards.md R181). -/
def abandonedAt (events : Nat) (s full : State) : State :=
  (s.replay ((full.trace.drop s.trace.length).take events)).resetBlock

theorem abandon_next {bytes : List Byte} {i : Instr} {s full : State} (hd : decodePacket bytes = .ok i)
    (h : exec i s = .next full) (events : Nat) :
    abandon bytes events s = .next (abandonedAt events s full) := by
  simp only [abandon, hd, h, abandonedAt]

theorem abandon_eq_next {bytes : List Byte} {i : Instr} {s t : State} {events : Nat}
    (hd : decodePacket bytes = .ok i) (h : abandon bytes events s = .next t) :
    ∃ full, exec i s = .next full ∧ t = abandonedAt events s full := by
  simp only [abandon, hd] at h
  split at h <;> cases h
  exact ⟨_, ‹_›, rfl⟩

/-- An input that carries no instruction acts on the outside or resets the block, unless it is a reset that
cuts a command short. -/
theorem actOn_cases (x : PortInput) (s : State) :
    actOn x s = .next (s.deliver x) ∨
    ∃ bytes events i, x = .resetDuring bytes events ∧ decodePacket bytes = .ok i ∧
      actOn x s = abandon bytes events s := by
  cases x with
  | resetDuring bytes events =>
    cases hd : decodePacket bytes with
    | ok i => exact .inr ⟨bytes, events, i, rfl, hd, rfl⟩
    | undefined why => exact .inl (by simp only [actOn, abandon, hd, State.deliver])
  | packet _ | line _ | address _ | initAnswer _ | sendAnswer _ | receiveError _ | capabilities _ _
  | reset => exact .inl rfl

/-- The ways a step can go on: nothing waits at the ports; the input taken runs an instruction; it carries
none; or it is a command that reset cuts short. -/
inductive Steps (s : State) : State → Prop
  | waits (hin : s.inbox = []) : Steps s (s.fetched [])
  | runs {x : PortInput} {rest : List PortInput} {i : Instr} {t : State} (hin : s.inbox = x :: rest)
      (hd : decode x = .ok i) (h : exec i (s.fetched rest) = .next t) : Steps s t
  | delivers {x : PortInput} {rest : List PortInput} {why : DecodeError} (hin : s.inbox = x :: rest)
      (hd : decode x = .undefined why) : Steps s ((s.fetched rest).deliver x)
  | abandons {bytes : List Byte} {events : Nat} {rest : List PortInput} {i : Instr} {full : State}
      (hin : s.inbox = .resetDuring bytes events :: rest) (hd : decodePacket bytes = .ok i)
      (h : exec i (s.fetched rest) = .next full) : Steps s (abandonedAt events (s.fetched rest) full)

theorem step_cases {s t : State} (h : step s = .next t) : Steps s t := by
  cases hin : s.inbox with
  | nil =>
    cases (step_nil hin).symm.trans h
    exact .waits hin
  | cons x rest =>
    rw [step_cons hin] at h
    cases hd : decode x with
    | ok i => exact .runs hin hd (by rwa [takeInput_ok hd] at h)
    | undefined why =>
      rw [takeInput_undefined hd] at h
      obtain hx | ⟨bytes, events, i, rfl, hp, hx⟩ := actOn_cases x (s.fetched rest)
      · cases hx.symm.trans h
        exact .delivers hin hd
      · obtain ⟨full, hfull, rfl⟩ := abandon_eq_next hp (hx.symm.trans h)
        exact .abandons hin hp hfull

/-- A step goes on when every instruction does. -/
theorem step_goes_on {s : State} (h : ∀ i rest, ∃ t, exec i (s.fetched rest) = .next t) :
    ∃ t, step s = .next t := by
  cases hin : s.inbox with
  | nil => exact ⟨_, step_nil hin⟩
  | cons x rest =>
    rw [step_cons hin]
    cases hd : decode x with
    | ok i => rw [takeInput_ok hd]; exact h i rest
    | undefined why =>
      rw [takeInput_undefined hd]
      obtain hx | ⟨bytes, events, i, -, hp, hx⟩ := actOn_cases x (s.fetched rest)
      · exact ⟨_, hx⟩
      · obtain ⟨full, hfull⟩ := h i rest
        exact ⟨_, hx.trans (abandon_next hp hfull events)⟩

/-- A predicate that taking an input, running an instruction, acting on the outside and cutting a command
short each keep is kept by every step. -/
theorem step_keeps {P : State → Prop} (hfetched : ∀ s rest, P s → P (s.fetched rest))
    (hexec : ∀ i s t, P s → exec i s = .next t → P t) (hdeliver : ∀ x s, P s → P (s.deliver x))
    (habandon : ∀ i s full events, P s → exec i s = .next full → P (abandonedAt events s full))
    {s t : State} (hs : P s) (h : step s = .next t) : P t := by
  cases step_cases h with
  | waits hin => exact hfetched s [] hs
  | runs hin hd hrun => exact hexec _ _ t (hfetched s _ hs) hrun
  | delivers hin hd => exact hdeliver _ _ (hfetched s _ hs)
  | abandons hin hd hfull => exact habandon _ _ _ _ (hfetched s _ hs) hfull

end Sys2Proof.Machine
end

section
/-! SUPPORT. The family 10_state.md: the session between two commands, the history, progress, and what FSM
and the session registers are read and written by. -/

namespace Sys2Proof.Machine

/-! The session invariant. -/

theorem SessionOk.of_same {s t : State} (h : SessionOk s) (hb : SameBlock s t) (hl : t.line = s.line) :
    SessionOk t := by
  obtain ⟨hfsm, hsess⟩ := hb
  unfold SessionOk
  rwa [hfsm, hsess, hl]

/-- A block without a session is consistent in Idle and in Closed (10_state.md R26). -/
theorem sessionOk_of_noSession {s : State} (hf : s.fsm = .idle ∨ s.fsm = .closed) (hs : s.sess = none) :
    SessionOk s := by
  rcases hf with hf | hf <;> simp [SessionOk, hf, hs]

theorem SessionOk.not_initializing {s : State} (h : SessionOk s) : s.fsm ≠ .initializing := by
  obtain ⟨hf | hf | hf, -⟩ := h <;> simp [hf]

theorem SessionOk.sess_ne_none {s : State} (h : SessionOk s) (hf : s.fsm = .active) : s.sess ≠ none :=
  Option.isSome_iff_ne_none.1 (h.2.1.1 hf)

theorem SessionOk.not_active_of_noSession {s : State} (h : SessionOk s) (hs : s.sess = none) :
    s.fsm ≠ .active := fun hf => h.sess_ne_none hf hs

/-- A handshake ends between two commands, whatever it started from (41_session.md R105, R108 to R110). -/
theorem handshake_sessionOk (bitrate : Word32) (target source : Byte) (s : State) :
    SessionOk (handshake bitrate target source s) := by
  obtain ⟨k, h⟩ | ⟨p, h⟩ := handshake_cases bitrate target source s
  · rw [h]; exact sessionOk_of_noSession (.inr rfl) rfl
  · rw [h]
    refine ⟨.inr (.inl rfl), by simp, ?_⟩
    rintro ss ⟨⟩
    exact ⟨rfl, rfl, effectiveBitrate_ne_zero bitrate, afterInit_line bitrate target source s⟩

theorem exec_sessionOk (i : Instr) (s t : State) (hs : SessionOk s) (h : exec i s = .next t) :
    SessionOk t := by
  cases exec_completes h with
  | answers hrun p => exact hs.of_same ⟨hrun.fsm_eq, hrun.sess_eq⟩ (hrun.line_eq hs.not_initializing)
  | starts flags bitrate target source hi hf => exact handshake_sessionOk bitrate target source s
  | stops hi hf hrun p => exact sessionOk_of_noSession (.inr rfl) rfl
  | arrives rx => exact hs.of_same ⟨rfl, rfl⟩ rfl
  | settles r => exact hs.of_same ⟨rfl, rfl⟩ rfl
  | passes => exact hs

theorem deliver_sessionOk (x : PortInput) (s : State) (hs : SessionOk s) : SessionOk (s.deliver x) := by
  cases x with
  | reset | resetDuring _ _ => exact sessionOk_of_noSession (.inl rfl) rfl
  | packet _ | line _ | address _ | initAnswer _ | sendAnswer _ | receiveError _ | capabilities _ _ =>
    exact hs.of_same ⟨rfl, rfl⟩ rfl

theorem abandonedAt_sessionOk (events : Nat) (s full : State) : SessionOk (abandonedAt events s full) :=
  sessionOk_of_noSession (.inl rfl) rfl

/-! The history. -/

theorem handshake_traceOk (bitrate : Word32) (target source : Byte) {s : State} (hs : TraceOk s) :
    TraceOk (handshake bitrate target source s) := by
  have hinit : TraceOk (afterInit bitrate target source s) :=
    (legalRun_afterInit bitrate target source s).traceOk hs
  obtain ⟨k, h⟩ | ⟨p, h⟩ := handshake_cases bitrate target source s
  · rw [h]; exact hinit
  · rw [h]; exact hinit

theorem exec_traceOk (i : Instr) (s t : State) (hs : TraceOk s) (h : exec i s = .next t) : TraceOk t := by
  cases exec_completes h with
  | answers hrun p => exact hrun.traceOk hs
  | starts flags bitrate target source hi hf => exact handshake_traceOk bitrate target source hs
  | stops hi hf hrun p => exact hrun.traceOk (s := s.setFsm .stopping) hs
  | arrives rx => exact hs
  | settles r => exact hs
  | passes => exact hs

theorem State.deliver_trace (x : PortInput) (s : State) : (s.deliver x).trace = s.trace := by
  cases x <;> rfl

theorem deliver_traceOk (x : PortInput) (s : State) (hs : TraceOk s) : TraceOk (s.deliver x) := by
  unfold TraceOk
  rwa [s.deliver_trace x]

theorem traceOk_replay {entries : List TraceEntry} {s : State} (hs : TraceOk s)
    (h : ∀ entry ∈ entries, EventOk entry.fsm entry.event) : TraceOk (s.replay entries) := by
  induction entries generalizing s with
  | nil => exact hs
  | cons entry entries ih =>
    rw [List.forall_mem_cons] at h
    exact ih (traceOk_performAs hs h.1) h.2

/-- What stands of a command cut short are entries of the whole command's history. -/
theorem abandonedAt_traceOk (events : Nat) {s full : State} (hs : TraceOk s) (hfull : TraceOk full) :
    TraceOk (abandonedAt events s full) :=
  traceOk_replay hs fun entry hmem => hfull entry (List.mem_of_mem_drop (List.mem_of_mem_take hmem))

/-! The session registers while there is no session. -/

/-- START goes on to the same state whatever the session registers hold: a refusal leaves them, the
handshake overwrites them (41_session.md R100 to R103). -/
theorem execStart_ignores_sess (flags : Byte) (bitrate : Word32) (target source : Byte) (s : State)
    (x : Option Session) :
    ∃ t u, execStart flags bitrate target source { s with sess := none } = .next t ∧
      execStart flags bitrate target source { s with sess := x } = .next u ∧
      (u = t ∨ (t.sess = none ∧ u = { t with sess := x })) := by
  by_cases hf : s.fsm = .idle ∨ s.fsm = .closed
  · by_cases hc : s.capFullInit = true ∧ s.capCksum = true
    · by_cases hi : initType flags = 0
      · exact ⟨_, _, execStart_handshake flags bitrate target source _ hf hc hi,
          execStart_handshake flags bitrate target source _ hf hc hi,
          .inl ((handshake_setSess bitrate target source s x).trans
            (handshake_setSess bitrate target source s none).symm)⟩
      · exact ⟨_, _, execStart_otherInit flags bitrate target source _ hf hc hi,
          execStart_otherInit flags bitrate target source _ hf hc hi, .inr ⟨rfl, rfl⟩⟩
    · exact ⟨_, _, execStart_noCapability flags bitrate target source _ hf hc,
        execStart_noCapability flags bitrate target source _ hf hc, .inr ⟨rfl, rfl⟩⟩
  · exact ⟨_, _, execStart_badState flags bitrate target source _ hf,
      execStart_badState flags bitrate target source _ hf, .inr ⟨rfl, rfl⟩⟩

theorem exec_ignores_sess_of_not_active (i : Instr) (s : State) (x : Option Session)
    (hf : s.fsm ≠ .active) :
    ∃ t u, exec i { s with sess := none } = .next t ∧ exec i { s with sess := x } = .next u ∧
      (u = t ∨ (t.sess = none ∧ u = { t with sess := x })) := by
  cases i with
  | start flags bitrate target source => exact execStart_ignores_sess flags bitrate target source s x
  | stop => exact ⟨_, _, execStop_refused _ hf, execStop_refused _ hf, .inr ⟨rfl, rfl⟩⟩
  | idle => exact ⟨_, _, execIdle_refused _ hf, execIdle_refused _ hf, .inr ⟨rfl, rfl⟩⟩
  | send dest src payload =>
    exact ⟨_, _, execSend_refused _ dest src payload hf, execSend_refused _ dest src payload hf,
      .inr ⟨rfl, rfl⟩⟩
  | recv timeout =>
    exact ⟨_, _, execRecv_refused _ timeout hf, execRecv_refused _ timeout hf, .inr ⟨rfl, rfl⟩⟩
  | reqresp timeout dest src payload =>
    exact ⟨_, _, execReqresp_refused _ dest src payload timeout hf,
      execReqresp_refused _ dest src payload timeout hf, .inr ⟨rfl, rfl⟩⟩
  | parity _ _ | frame _ _ _ _ _ | frameStopsession _ _ _ | frameKeepalive _ _ _ | initAddress _
  | initKeybytes => exact ⟨_, _, rfl, rfl, .inr ⟨rfl, rfl⟩⟩

/-- The five commands of a session are refused while FSM is not Active (60_exceptions.md R156). -/
theorem exec_refused_of_not_active {s : State} (hf : s.fsm ≠ .active) (timeout : Timeout)
    (dest src : Byte) (payload : List Byte) :
    ∀ i ∈ [Instr.stop, .idle, .send dest src payload, .recv timeout, .reqresp timeout dest src payload],
      exec i s = .next (s.raise .badState) := by
  simp only [List.forall_mem_cons, List.not_mem_nil, false_imp_iff, implies_true, and_true]
  exact ⟨execStop_refused s hf, execIdle_refused s hf, execSend_refused s dest src payload hf,
    execRecv_refused s timeout hf, execReqresp_refused s dest src payload timeout hf⟩

/-! The statements. -/

/-- Settles O44: no part of a step leaves the states between two commands. -/
theorem stepKeepsTheSessionConsistent : Obligations.StepKeepsTheSessionConsistent := by
  intro s t hs h
  exact step_keeps (fun s rest hs => hs.of_same ⟨rfl, rfl⟩ rfl) exec_sessionOk deliver_sessionOk
    (fun _ s full events _ _ => abandonedAt_sessionOk events s full) hs h

/-- Settles O45: every command is a legal run of events, and a command cut short is a part of one. -/
theorem stepKeepsTheHistoryLegal : Obligations.StepKeepsTheHistoryLegal := by
  intro s t hs h
  exact step_keeps (fun _ _ hs => hs) exec_traceOk deliver_traceOk
    (fun i s full events hs h => abandonedAt_traceOk events hs (exec_traceOk i s full hs h)) hs h

/-- Settles O48: between two commands there is a session whenever an instruction needs one. -/
theorem everyStepFromAConsistentStateGoesOn : Obligations.EveryStepFromAConsistentStateGoesOn := by
  intro s hs
  exact step_goes_on fun i rest => exec_goes_on fun _ hf => hs.sess_ne_none hf

/-- Settles O50, by the ways an instruction can go on. -/
theorem onlyStartAndStopMoveTheFsm : Obligations.OnlyStartAndStopMoveTheFsm := by
  intro i s t h hchanged
  cases exec_completes h with
  | answers hrun p => exact absurd ⟨hrun.fsm_eq, hrun.sess_eq⟩ hchanged
  | starts flags bitrate target source hi hf =>
    exact .inl ⟨⟨flags, bitrate, target, source, hi⟩, hf, handshake_fsm bitrate target source s⟩
  | stops hi hf hrun p => exact .inr ⟨hi, hf, rfl⟩
  | arrives rx => exact absurd ⟨rfl, rfl⟩ hchanged
  | settles r => exact absurd ⟨rfl, rfl⟩ hchanged
  | passes => exact absurd ⟨rfl, rfl⟩ hchanged

/-- Settles O2: waiting is taking no input, in which only time passes. -/
theorem waitingLeavesEverythingButTimeAlone : Obligations.WaitingLeavesEverythingButTimeAlone := by
  intro s h
  exact ⟨s.fetched [], step_nil h, ⟨rfl, rfl⟩, ⟨rfl, rfl, rfl, rfl⟩, ⟨rfl, rfl, h.symm⟩, rfl, rfl,
    Nat.le_add_right _ _⟩

/-- Settles O36, from the refusals, from START's disregard of the registers and from the one fault. -/
theorem noSessionRegisterIsReadWithoutASession : Obligations.NoSessionRegisterIsReadWithoutASession := by
  refine ⟨?_, exec_ignores_sess_of_not_active, exec_fault_iff⟩
  intro s timeout dest src payload hs hnone
  exact exec_refused_of_not_active (hs.not_active_of_noSession hnone) timeout dest src payload

end Sys2Proof.Machine
end

section
/-! SUPPORT. The family 20_memory.md: the order and the passing of time, the growth of the history, the one
response of a command, the byte order of the ports, and what inputs that are no instruction do. -/

namespace Sys2Proof.Machine

/-! The history that an instruction leaves. -/

/-- The history and the clock of `t` are what the events `es` leave when they happen in the world of `s`,
every reading of the time base among them giving the time at that point (00_scope.md R9, 20_memory.md
R43). -/
def Records (es : List Event) (s t : State) : Prop :=
  ∃ u, SameWorld s u ∧ Honest es u ∧ t.trace = (performAll es u).trace ∧
    t.clock = (performAll es u).clock

theorem SameWorld.refl (s : State) : SameWorld s s := ⟨rfl, rfl, rfl, rfl, rfl, rfl, rfl, rfl⟩

theorem SameWorld.symm {s t : State} (h : SameWorld s t) : SameWorld t s := by
  obtain ⟨h1, h2, h3, h4, h5, h6, h7, h8⟩ := h
  exact ⟨h1.symm, h2.symm, h3.symm, h4.symm, h5.symm, h6.symm, h7.symm, h8.symm⟩

theorem SameWorld.clock_eq {s t : State} (h : SameWorld s t) : t.clock = s.clock := by
  obtain ⟨-, -, -, -, hclock, -, -, -⟩ := h
  exact hclock

theorem SameWorld.trace_eq {s t : State} (h : SameWorld s t) : t.trace = s.trace := by
  obtain ⟨-, -, -, -, -, -, -, htrace⟩ := h
  exact htrace

theorem EndsRun.records {s t : State} {f : Fsm} {es : List Event} (h : EndsRun s t f es) :
    Records es s t := by
  obtain ⟨x, hes, ht⟩ := h
  exact ⟨{ s with fsm := f, sess := x }, SameWorld.refl s, hes, by rw [ht], by rw [ht]⟩

/-- A wire item adds to what the transport holds or does nothing (assumption log 6). -/
theorem exec_wireItem_cases {i : Instr} {s t : State} (hi : isCommand i = false)
    (h : exec i s = .next t) : (∃ rx, t = s.arrive rx) ∨ (∃ r, t = s.settleInit r) ∨ t = s := by
  cases i with
  | frame _ _ _ _ _ | frameStopsession _ _ _ | frameKeepalive _ _ _ => cases h; exact .inl ⟨_, rfl⟩
  | initKeybytes => cases h; exact .inr (.inl ⟨_, rfl⟩)
  | initAddress _ => cases h; exact .inr (.inr rfl)
  | parity _ _ | start _ _ _ _ | stop | idle | send _ _ _ | recv _ | reqresp _ _ _ _ => cases hi

theorem exec_wireItem_frame {i : Instr} {s t : State} (hi : isCommand i = false)
    (h : exec i s = .next t) :
    t.trace = s.trace ∧ t.clock = s.clock ∧ t.responses = s.responses ∧ SamePorts s t := by
  obtain ⟨rx, rfl⟩ | ⟨r, rfl⟩ | rfl := exec_wireItem_cases hi h
  · exact ⟨rfl, rfl, rfl, rfl, rfl, rfl⟩
  · exact ⟨rfl, rfl, rfl, rfl, rfl, rfl⟩
  · exact ⟨rfl, rfl, rfl, rfl, rfl, rfl⟩

/-- Every instruction that goes on leaves the history and the clock of a run of events. -/
theorem exec_records {i : Instr} {s t : State} (h : exec i s = .next t) : ∃ es, Records es s t := by
  cases hi : isCommand i with
  | true =>
    obtain ⟨f, es, hrun⟩ := exec_run i s t hi h
    exact ⟨es, hrun.records⟩
  | false =>
    obtain ⟨htrace, hclock, -, -⟩ := exec_wireItem_frame hi h
    exact ⟨[], s, SameWorld.refl s, trivial, htrace, hclock⟩

theorem Records.events_eq {es : List Event} {s t : State} (h : Records es s t) :
    t.events = s.events ++ es := by
  obtain ⟨u, hworld, -, htrace, -⟩ := h
  calc t.events
    _ = (performAll es u).events := by rw [State.events, htrace, State.events]
    _ = u.events ++ es := performAll_events es u
    _ = s.events ++ es := by rw [State.events, hworld.trace_eq, State.events]

theorem Records.newEvents_eq {es : List Event} {s t : State} (h : Records es s t) :
    newEvents s t = es := by
  rw [newEvents, h.events_eq, List.drop_left]

theorem Records.waits_le {es : List Event} {s t : State} (h : Records es s t) :
    s.clock + (es.map waitOf).sum ≤ t.clock := by
  obtain ⟨u, hworld, -, -, hclock⟩ := h
  rw [hclock, ← hworld.clock_eq]
  exact performAll_waits es u

theorem Records.trace_prefix {es : List Event} {s t : State} (h : Records es s t) :
    s.trace <+: t.trace := by
  obtain ⟨u, hworld, -, htrace, -⟩ := h
  obtain ⟨new, hnew, -⟩ := performAll_trace es u
  exact ⟨new, by rw [htrace, hnew, hworld.trace_eq]⟩

theorem Records.clock_le {es : List Event} {s t : State} (h : Records es s t) : s.clock ≤ t.clock :=
  le_trans (Nat.le_add_right _ _) h.waits_le

/-- Of a command cut short stand the entries before it and its own first entries (70_reset_and_hazards.md
R181). -/
theorem Records.abandonedAt_trace {es : List Event} {s full : State} (h : Records es s full)
    (events : Nat) :
    (abandonedAt events s full).trace = full.trace.take (s.trace.length + events) := by
  obtain ⟨u, hworld, -, htrace, -⟩ := h
  obtain ⟨new, hnew, -⟩ := performAll_trace es u
  have hfull : full.trace = s.trace ++ new := by rw [htrace, hnew, hworld.trace_eq]
  calc (abandonedAt events s full).trace
    _ = (s.replay (new.take events)).trace := by
      rw [abandonedAt, hfull, List.drop_left, State.resetBlock_trace]
    _ = s.trace ++ new.take events := by
      rw [(performAll_replay es u s hworld.symm new hnew events).1, hworld.trace_eq]
    _ = full.trace.take (s.trace.length + events) := by rw [hfull, List.take_length_add_append]

/-! The order of time. -/

/-- Part of a history in the order of time is in that order. -/
theorem TimeOk.of_prefix {s t : State} (h : TimeOk s) (htrace : t.trace <+: s.trace)
    (hdone : ∀ entry ∈ t.trace, entry.done ≤ t.clock) : TimeOk t := by
  obtain ⟨hpair, -, hnow⟩ := h
  exact ⟨hpair.sublist htrace.sublist, hdone, fun entry hmem => hnow entry (htrace.subset hmem)⟩

/-- The order of time is a matter of the history and a bound on the clock. -/
theorem TimeOk.of_later {s t : State} (h : TimeOk s) (htrace : t.trace = s.trace)
    (hclock : s.clock ≤ t.clock) : TimeOk t := by
  refine h.of_prefix (htrace ▸ List.prefix_rfl) fun entry hmem => ?_
  obtain ⟨-, hdone, -⟩ := h
  exact le_trans (hdone entry (htrace ▸ hmem)) hclock

theorem Records.timeOk {es : List Event} {s t : State} (h : Records es s t) (hs : TimeOk s) :
    TimeOk t := by
  obtain ⟨u, hworld, hes, htrace, hclock⟩ := h
  have hu : TimeOk u := hs.of_later hworld.trace_eq hworld.clock_eq.ge
  exact (performAll_TimeOk es u hu hes).of_later htrace hclock.ge

theorem exec_timeOk (i : Instr) (s t : State) (hs : TimeOk s) (h : exec i s = .next t) : TimeOk t := by
  obtain ⟨es, hrec⟩ := exec_records h
  exact hrec.timeOk hs

theorem State.deliver_clock (x : PortInput) (s : State) : (s.deliver x).clock = s.clock := by
  cases x <;> rfl

/-- No replay puts an event into the future, whatever events it replays. -/
theorem replay_done_le (entries : List TraceEntry) {s : State}
    (h : ∀ entry ∈ s.trace, entry.done ≤ s.clock) :
    ∀ entry ∈ (s.replay entries).trace, entry.done ≤ (s.replay entries).clock := by
  induction entries generalizing s with
  | nil => exact h
  | cons first entries ih =>
    refine ih (s := s.performAs first.fsm first.event) fun entry hmem => ?_
    rcases List.mem_append.1 hmem with hmem | hmem
    · exact le_trans (h entry hmem) (Nat.le_add_right _ _)
    · rw [List.mem_singleton.1 hmem]
      exact le_rfl

/-- A command cut short leaves a part of the whole command's history, none of it in the future. -/
theorem abandonedAt_timeOk {i : Instr} {s full : State} (events : Nat) (hs : TimeOk s)
    (h : exec i s = .next full) : TimeOk (abandonedAt events s full) := by
  obtain ⟨es, hrec⟩ := exec_records h
  refine (hrec.timeOk hs).of_prefix ?_ ?_
  · rw [hrec.abandonedAt_trace events]
    exact List.take_prefix _ _
  · obtain ⟨-, hdone, -⟩ := hs
    exact replay_done_le _ hdone

/-! The one response of a command. -/

/-- `t` has one response more than `s`. -/
def AnswersOnce (s t : State) : Prop := ∃ p, t.responses = s.responses ++ [p]

theorem AnswersOnce.of_respond {s u : State} (h : u.responses = s.responses) (p : List Byte) :
    AnswersOnce s (u.respond p) := ⟨p, by rw [State.respond_responses, h]⟩

theorem AnswersOnce.of_raise {s u : State} (h : u.responses = s.responses) (k : CmdError) :
    AnswersOnce s (u.raise k) := .of_respond h _

theorem framerSend_responses (ss : Session) (m : OutMessage) (s : State) :
    (framerSend ss m s).2.responses = s.responses := by
  obtain ⟨es, -, h⟩ := framerSend_run ss m s
  rw [h, performAll_responses]

theorem framerReceive_responses (tmo : Nat) (s : State) :
    (framerReceive tmo s).2.responses = s.responses := by
  obtain ⟨es, -, h⟩ := framerReceive_run tmo s
  rw [h, performAll_responses]

theorem reqResp_responses (ss : Session) (m : OutMessage) (tmo : Nat) (s : State) :
    (reqResp ss m tmo s).2.responses = s.responses := by
  obtain ⟨es, -, h⟩ := reqResp_run ss m tmo s
  rw [h, performAll_responses]

theorem finishSend_answersOnce {s : State} {r : Except CmdError Unit × State}
    (h : r.2.responses = s.responses) : AnswersOnce s (finishSend r) := by
  obtain ⟨_ | _, u⟩ := r
  · exact .of_raise h _
  · exact .of_respond h _

theorem finishMessage_answersOnce {s : State} {r : Except CmdError InMessage × State}
    (h : r.2.responses = s.responses) : AnswersOnce s (finishMessage r) := by
  obtain ⟨_ | _, u⟩ := r
  · exact .of_raise h _
  · exact .of_respond h _

theorem finishStop_answersOnce {s : State} {r : Except CmdError InMessage × State}
    (h : r.2.responses = s.responses) : AnswersOnce s (finishStop r) := by
  obtain ⟨_ | _, u⟩ := r
  · exact .of_respond h _
  · exact .of_respond h _

theorem afterInit_responses (bitrate : Word32) (target source : Byte) (s : State) :
    (afterInit bitrate target source s).responses = s.responses := by
  obtain ⟨es, -, h⟩ := legalRun_afterInit bitrate target source s
  rw [h, performAll_responses, State.setSession_responses, State.setFsm_responses]

theorem handshake_answersOnce (bitrate : Word32) (target source : Byte) (s : State) :
    AnswersOnce s (handshake bitrate target source s) := by
  have hinit := afterInit_responses bitrate target source s
  obtain ⟨k, h⟩ | ⟨p, h⟩ := handshake_cases bitrate target source s
  · rw [h]; exact .of_raise hinit k
  · rw [h]; exact .of_respond hinit p

theorem execStart_answersOnce (flags : Byte) (bitrate : Word32) (target source : Byte) {s t : State}
    (h : execStart flags bitrate target source s = .next t) : AnswersOnce s t := by
  obtain ⟨k, hk⟩ | ⟨-, hh⟩ := execStart_cases flags bitrate target source s
  · cases hk.symm.trans h
    exact .of_raise rfl k
  · cases hh.symm.trans h
    exact handshake_answersOnce bitrate target source s

/-- A command of a session answers once when it does so with a session and when it is refused. -/
theorem answersOnce_of_session {s t : State} {o : Host.Outcome State Fault Refusal} (h : o = .next t)
    {done : Session → State} (hdone : ∀ ss, AnswersOnce s (done ss))
    (hactive : s.fsm = .active → ∀ ss, s.sess = some ss → o = .next (done ss))
    (habsent : s.fsm = .active → s.sess = none → o = .fault .sessionAbsent)
    (hrefused : s.fsm ≠ .active → o = .next (s.raise .badState)) : AnswersOnce s t := by
  by_cases hf : s.fsm = .active
  · cases hs : s.sess with
    | none => cases (habsent hf hs).symm.trans h
    | some ss =>
      cases (hactive hf ss hs).symm.trans h
      exact hdone ss
  · cases (hrefused hf).symm.trans h
    exact .of_raise rfl _

theorem execRecv_answersOnce (timeout : Timeout) {s t : State} (h : execRecv timeout s = .next t) :
    AnswersOnce s t := by
  by_cases hf : s.fsm = .active
  · cases (execRecv_active s timeout hf).symm.trans h
    exact finishMessage_answersOnce (framerReceive_responses _ s)
  · cases (execRecv_refused s timeout hf).symm.trans h
    exact .of_raise rfl _

theorem exec_answersOnce {i : Instr} {s t : State} (hi : isCommand i = true) (h : exec i s = .next t) :
    AnswersOnce s t := by
  cases i with
  | parity value mode => cases h; exact .of_respond rfl _
  | start flags bitrate target source => exact execStart_answersOnce flags bitrate target source h
  | stop =>
    exact answersOnce_of_session h
      (fun ss => finishStop_answersOnce (reqResp_responses ss _ _ (s.setFsm .stopping)))
      (fun hf ss hs => execStop_active s ss hf hs) (execStop_absent s) (execStop_refused s)
  | idle =>
    exact answersOnce_of_session h (fun ss => .of_respond (reqResp_responses ss _ _ s) _)
      (fun hf ss hs => execIdle_active s ss hf hs) (execIdle_absent s) (execIdle_refused s)
  | send dest src payload =>
    exact answersOnce_of_session h (fun ss => finishSend_answersOnce (framerSend_responses ss _ s))
      (fun hf ss hs => execSend_active s ss dest src payload hf hs)
      (execSend_absent s dest src payload) (execSend_refused s dest src payload)
  | recv timeout => exact execRecv_answersOnce timeout h
  | reqresp timeout dest src payload =>
    exact answersOnce_of_session h (fun ss => finishMessage_answersOnce (reqResp_responses ss _ _ s))
      (fun hf ss hs => execReqresp_active s ss dest src payload timeout hf hs)
      (execReqresp_absent s dest src payload timeout) (execReqresp_refused s dest src payload timeout)
  | frame _ _ _ _ _ | frameStopsession _ _ _ | frameKeepalive _ _ _ | initAddress _ | initKeybytes =>
    cases hi

theorem EndsRun.samePorts {s t : State} {f : Fsm} {es : List Event} (h : EndsRun s t f es) :
    SamePorts s t := by
  obtain ⟨x, -, ht⟩ := h
  rw [ht]
  exact ⟨performAll_capFullInit es _, performAll_capCksum es _, performAll_inbox es _⟩

theorem exec_samePorts {i : Instr} {s t : State} (h : exec i s = .next t) : SamePorts s t := by
  cases hi : isCommand i with
  | true =>
    obtain ⟨f, es, hrun⟩ := exec_run i s t hi h
    exact hrun.samePorts
  | false =>
    obtain ⟨-, -, -, hports⟩ := exec_wireItem_frame hi h
    exact hports

/-! The growth of the history. -/

/-- `t` has every event and every response of `s`, and is not earlier. -/
def Grows (s t : State) : Prop := s.trace <+: t.trace ∧ s.responses <+: t.responses ∧ s.clock ≤ t.clock

theorem Grows.refl (s : State) : Grows s s := ⟨List.prefix_rfl, List.prefix_rfl, le_rfl⟩

theorem Grows.trans {s t u : State} (h : Grows s t) (h' : Grows t u) : Grows s u := by
  obtain ⟨htrace, hresponses, hclock⟩ := h
  obtain ⟨htrace', hresponses', hclock'⟩ := h'
  exact ⟨htrace.trans htrace', hresponses.trans hresponses', hclock.trans hclock'⟩

theorem grows_performAs (s : State) (f : Fsm) (e : Event) : Grows s (s.performAs f e) :=
  ⟨List.prefix_append _ _, List.prefix_rfl, Nat.le_add_right _ _⟩

theorem grows_replay (entries : List TraceEntry) (s : State) : Grows s (s.replay entries) := by
  induction entries generalizing s with
  | nil => exact .refl s
  | cons entry entries ih => exact (grows_performAs s _ _).trans (ih _)

theorem grows_abandonedAt (events : Nat) (s full : State) : Grows s (abandonedAt events s full) :=
  grows_replay _ s

theorem grows_fetched (s : State) (rest : List PortInput) : Grows s (s.fetched rest) :=
  ⟨List.prefix_rfl, List.prefix_rfl, Nat.le_add_right _ _⟩

theorem grows_deliver (x : PortInput) (s : State) : Grows s (s.deliver x) := by
  cases x with
  | packet _ => exact ⟨List.prefix_rfl, List.prefix_append _ _, le_rfl⟩
  | line _ | address _ | initAnswer _ | sendAnswer _ | receiveError _ | capabilities _ _ | reset
  | resetDuring _ _ => exact ⟨List.prefix_rfl, List.prefix_rfl, le_rfl⟩

theorem exec_responses_prefix {i : Instr} {s t : State} (h : exec i s = .next t) :
    s.responses <+: t.responses := by
  cases hi : isCommand i with
  | true =>
    obtain ⟨p, hp⟩ := exec_answersOnce hi h
    exact ⟨[p], hp.symm⟩
  | false =>
    obtain ⟨-, -, hresponses, -⟩ := exec_wireItem_frame hi h
    rw [hresponses]

theorem exec_grows {i : Instr} {s t : State} (h : exec i s = .next t) : Grows s t := by
  obtain ⟨es, hrec⟩ := exec_records h
  exact ⟨hrec.trace_prefix, exec_responses_prefix h, hrec.clock_le⟩

/-! The byte order of the ports, and the inputs that are no instruction. -/

/-- The bits on the left weigh as much as those on the right leave room for. -/
theorem toNat_append_eq_add {m n : Nat} (x : BitVec m) (y : BitVec n) :
    (x ++ y).toNat = x.toNat * 2 ^ n + y.toNat := by
  rw [BitVec.toNat_append, ← Nat.shiftLeft_add_eq_or_of_lt y.isLt, Nat.shiftLeft_eq]

theorem toNat_fromBe32 (b3 b2 b1 b0 : Byte) : (fromBe32 b3 b2 b1 b0).toNat =
    b3.toNat * 2 ^ 24 + b2.toNat * 2 ^ 16 + b1.toNat * 2 ^ 8 + b0.toNat := by
  simp only [fromBe32, toNat_append_eq_add]
  omega

theorem toNat_fromBe16 (b1 b0 : Byte) : (fromBe16 b1 b0).toNat = b1.toNat * 2 ^ 8 + b0.toNat :=
  toNat_append_eq_add b1 b0

/-- The four bytes that `be32` sends make the number, the first weighing most (20_memory.md R45). -/
theorem toNat_eq_of_be32 (v : Word32) : v.toNat = (v.extractLsb' 24 8).toNat * 2 ^ 24 +
    (v.extractLsb' 16 8).toNat * 2 ^ 16 + (v.extractLsb' 8 8).toNat * 2 ^ 8 +
    (v.extractLsb' 0 8).toNat := by
  rw [← toNat_fromBe32, fromBe32_be32]

/-- An input that carries no instruction is delivered, unless it is a reset during a command. -/
theorem step_delivers {s : State} {x : PortInput} {rest : List PortInput} {why : DecodeError}
    (hin : s.inbox = x :: rest) (hd : decode x = .undefined why)
    (hx : ∀ bytes events, x ≠ .resetDuring bytes events) :
    step s = .next ((s.fetched rest).deliver x) := by
  rw [step_cons hin, takeInput_undefined hd]
  obtain h | ⟨bytes, events, i, rfl, -, -⟩ := actOn_cases x (s.fetched rest)
  · exact h
  · exact absurd rfl (hx bytes events)

/-! The statements. -/

/-- Settles O46: every command is a run of events that reads the time honestly, and a command cut short
is a part of one. -/
theorem stepKeepsTheHistoryInTimeOrder : Obligations.StepKeepsTheHistoryInTimeOrder := by
  intro s t hs h
  exact step_keeps (fun s rest hs => hs.of_later rfl (Nat.le_add_right _ _)) exec_timeOk
    (fun x s hs => hs.of_later (s.deliver_trace x) (s.deliver_clock x).ge)
    (fun i s full events hs hfull => abandonedAt_timeOk events hs hfull) hs h

/-- Settles O49: a command ends in one response, a wire item in none. -/
theorem everyCommandGivesOneResponse : Obligations.EveryCommandGivesOneResponse := by
  intro i s t h
  obtain ⟨es, hrec⟩ := exec_records h
  refine ⟨fun hi => exec_answersOnce hi h, fun hi => ?_, exec_samePorts h, hrec.trace_prefix⟩
  obtain ⟨htrace, -, hresponses, -⟩ := exec_wireItem_frame hi h
  exact ⟨hresponses, htrace⟩

/-- Settles O51: each part of a step adds to what there was. -/
theorem historyOnlyGrows : Obligations.HistoryOnlyGrows := by
  intro s t h
  exact step_keeps (P := Grows s) (fun u rest hu => hu.trans (grows_fetched u rest))
    (fun i u v hu hrun => hu.trans (exec_grows hrun)) (fun x u hu => hu.trans (grows_deliver x u))
    (fun i u full events hu _ => hu.trans (grows_abandonedAt events u full)) (.refl s) h

/-- Settles O52: the new events are the run's, and a run lasts at least as long as its waits. -/
theorem commandsLastAtLeastAsLongAsTheirWaits : Obligations.CommandsLastAtLeastAsLongAsTheirWaits := by
  intro i s t h
  obtain ⟨es, hrec⟩ := exec_records h
  rw [hrec.newEvents_eq]
  exact hrec.waits_le

/-- Settles O1: the state in between is the one in which the input has just been taken. -/
theorem stepRunsTheDecodedInstruction : Obligations.StepRunsTheDecodedInstruction := by
  intro s x rest i hin hd
  have hstep : step s = exec i (s.fetched rest) := (step_cons hin).trans (takeInput_ok hd _)
  exact ⟨s.fetched rest, hstep, rfl, ⟨rfl, rfl⟩, ⟨rfl, rfl, rfl, rfl⟩, rfl, rfl, rfl, rfl,
    Nat.le_add_right _ _⟩

/-- Settles O9: `fromBe32` and `fromBe16` read, and `be32` writes, the most significant byte first. -/
theorem multiByteOperandsTravelMostSignificantFirst :
    Obligations.MultiByteOperandsTravelMostSignificantFirst := by
  refine ⟨fun flags b3 b2 b1 b0 target source => ?_, fun t1 t0 dest src => ?_, fun ss => ?_, fun m => ?_⟩
  · exact ⟨fromBe32 b3 b2 b1 b0, rfl, toNat_fromBe32 b3 b2 b1 b0⟩
  · exact ⟨fromBe16 t1 t0, rfl, rfl, toNat_fromBe16 t1 t0⟩
  · exact ⟨_, _, _, _, rfl, toNat_eq_of_be32 ss.bitrate⟩
  · exact ⟨_, _, _, _, rfl, toNat_eq_of_be32 m.time⟩

/-- Settles O40, by what each kind of input delivers. -/
theorem otherInputsActOnTheOutsideOnly : Obligations.OtherInputsActOnTheOutsideOnly := by
  intro s x rest why hin hd hpacket hreset hduring
  refine ⟨_, step_delivers hin hd hduring, ?_⟩
  cases x with
  | line _ | address _ | initAnswer _ | sendAnswer _ | receiveError _ | capabilities _ _ =>
    simp [State.deliver, SameBlock]
  | packet bytes => exact absurd rfl (hpacket bytes)
  | reset => exact absurd rfl hreset
  | resetDuring bytes events => exact absurd rfl (hduring bytes events)

end Sys2Proof.Machine
end

section
/-! SUPPORT. What the decoder reads and the encoder writes, said once: the layouts decode, and each port's
bytes are the encoding of what they decode to. -/

namespace Sys2Proof

open Sys2Proof.Machine

/-! Packets: the layouts decode (30_encoding.md R71), the converse of `decodePacket_ok`. -/

theorem decodePacket_parity (value : Byte) (mode : ParityMode) :
    decodePacket [0x01, value, modeByte mode] = .ok (.parity value mode) := by
  cases mode with
  | even => rfl
  | odd => rfl

theorem decodePacket_start (flags b3 b2 b1 b0 target source : Byte) :
    decodePacket [0x10, flags, b3, b2, b1, b0, target, source] =
      .ok (.start flags (fromBe32 b3 b2 b1 b0) target source) := rfl

theorem decodePacket_recv (t1 t0 : Byte) :
    decodePacket [0x21, t1, t0] = .ok (.recv (fromBe16 t1 t0)) := rfl

theorem decodePacket_send (dest src : Byte) {len : Byte} {payload : List Byte}
    (h : payload.length = len.toNat) :
    decodePacket (0x20 :: dest :: src :: len :: payload) = .ok (.send dest src payload) := if_pos h

theorem decodePacket_reqresp (t1 t0 dest src : Byte) {len : Byte} {payload : List Byte}
    (h : payload.length = len.toNat) :
    decodePacket (0x22 :: t1 :: t0 :: dest :: src :: len :: payload) =
      .ok (.reqresp (fromBe16 t1 t0) dest src payload) := if_pos h

/-- A `len` byte counts any payload that it can count. -/
theorem length_eq_toNat_lengthByte {payload : List Byte} (h : payload.length ≤ 255) :
    payload.length = (BitVec.ofNat 8 payload.length).toNat := by
  rw [BitVec.toNat_ofNat, Nat.mod_eq_of_lt (by omega)]

/-- The `len` byte is determined by the payload it counts. -/
theorem lengthByte_eq {payload : List Byte} {len : Byte} (h : payload.length = len.toNat) :
    BitVec.ofNat 8 payload.length = len := by
  rw [h, BitVec.ofNat_toNat, BitVec.setWidth_eq]

/-- The length of a SEND packet (30_encoding.md R78). -/
theorem length_send {op dest src len : Byte} {payload : List Byte} (h : payload.length = len.toNat) :
    (op :: dest :: src :: len :: payload).length = 4 + len.toNat := by
  simp only [List.length_cons]
  omega

/-- The length of a REQRESP packet (30_encoding.md R78). -/
theorem length_reqresp {op t1 t0 dest src len : Byte} {payload : List Byte}
    (h : payload.length = len.toNat) :
    (op :: t1 :: t0 :: dest :: src :: len :: payload).length = 6 + len.toNat := by
  simp only [List.length_cons]
  omega

/-! The round trips, packet by packet. -/

/-- A packet that decodes is the encoding of a well-formed command. -/
theorem encodeInput_of_decodePacket {bytes : List Byte} {i : Instr} (h : decodePacket bytes = .ok i) :
    encodeInput i = .packet bytes ∧ i.wellFormed = true := by
  obtain ⟨v, mb, m, rfl, hm, rfl⟩ | ⟨f, b3, b2, b1, b0, t, s, rfl, rfl⟩ | ⟨rfl, rfl⟩ | ⟨rfl, rfl⟩ |
    ⟨d, s, len, p, rfl, hl, rfl⟩ | ⟨t1, t0, rfl, rfl⟩ | ⟨t1, t0, d, s, len, p, rfl, hl, rfl⟩ :=
    decodePacket_ok h
  · rw [(parityModeOf_eq_some mb m).1 hm]
    exact ⟨rfl, rfl⟩
  · rw [encodeInput, encode, be32_fromBe32]
    exact ⟨rfl, rfl⟩
  · exact ⟨rfl, rfl⟩
  · exact ⟨rfl, rfl⟩
  · rw [encodeInput, encode, lengthByte_eq hl]
    exact ⟨rfl, decide_eq_true (hl ▸ Nat.le_of_lt_succ len.isLt)⟩
  · rw [encodeInput, encode, be16_fromBe16]
    exact ⟨rfl, rfl⟩
  · rw [encodeInput, encode, lengthByte_eq hl, be16_fromBe16]
    exact ⟨rfl, decide_eq_true (hl ▸ Nat.le_of_lt_succ len.isLt)⟩

/-! The round trips of a frame (30_encoding.md R60, R66). -/

/-- A header, 1 to 14 payload bytes and a last byte are a frame, the converse of `decodeLine_ok`. -/
theorem decodeLine_frame (len da sa ck : Byte) {payload : List Byte}
    (h : 1 ≤ payload.length ∧ payload.length ≤ 14) :
    decodeLine ([len, da, sa] ++ payload ++ [ck]) = .ok (classifyFrame len da sa payload ck) := by
  have hbody : 2 ≤ (payload ++ [ck]).length ∧ (payload ++ [ck]).length ≤ 15 := by
    rw [List.length_append, List.length_singleton]
    omega
  calc decodeLine ([len, da, sa] ++ payload ++ [ck])
    _ = .ok (classifyFrame len da sa (payload ++ [ck]).dropLast ((payload ++ [ck]).getLastD 0)) :=
      if_pos hbody
    _ = .ok (classifyFrame len da sa payload ck) := by simp

/-- The frame is decoded where it is read, since one read holds all of it. -/
theorem decode_line_frame (len da sa ck : Byte) {payload : List Byte}
    (h : 1 ≤ payload.length ∧ payload.length ≤ 14) :
    decode (.line (rxImageOf ([len, da, sa] ++ payload ++ [ck]))) =
      .ok (classifyFrame len da sa payload ck) := by
  have hlen : ([len, da, sa] ++ payload ++ [ck]).length ≤ 18 := by
    simp only [List.length_append, List.length_cons, List.length_nil]
    omega
  rw [decode, rxImageOf_bytes _ hlen, decodeLine_frame len da sa ck h]

/-- A frame is well-formed when its payload is legal and it is neither of the control frames. -/
theorem wellFormed_frame_iff (len da sa ck : Byte) (payload : List Byte) :
    (Instr.frame len da sa payload ck).wellFormed = true ↔
      (1 ≤ payload.length ∧ payload.length ≤ 14) ∧ ¬(len = lenByte 1 ∧ payload = [ctlStop]) ∧
        ¬(len = lenByte 1 ∧ payload = [ctlKeepalive]) := by
  have hlen : lenByte 1 = 0x82 := rfl
  simp [Instr.wellFormed, hlen, ctlStop, ctlKeepalive, imp_iff_not_or, or_and_left]

/-- What a frame's fields are classified as has these fields, and is well-formed. -/
theorem encodeInput_classifyFrame (len da sa ck : Byte) {payload : List Byte}
    (h : 1 ≤ payload.length ∧ payload.length ≤ 14) :
    encodeInput (classifyFrame len da sa payload ck) =
        .line (rxImageOf ([len, da, sa] ++ payload ++ [ck])) ∧
      (classifyFrame len da sa payload ck).wellFormed = true := by
  by_cases hstop : len = lenByte 1 ∧ payload = [ctlStop]
  · obtain ⟨rfl, rfl⟩ := hstop
    exact ⟨rfl, rfl⟩
  by_cases hkeep : len = lenByte 1 ∧ payload = [ctlKeepalive]
  · obtain ⟨rfl, rfl⟩ := hkeep
    exact ⟨rfl, rfl⟩
  rw [classifyFrame, if_neg hstop, if_neg hkeep]
  exact ⟨rfl, (wellFormed_frame_iff len da sa ck payload).2 ⟨h, hstop, hkeep⟩⟩

theorem classifyFrame_of_wellFormed {len da sa ck : Byte} {payload : List Byte}
    (h : (Instr.frame len da sa payload ck).wellFormed = true) :
    classifyFrame len da sa payload ck = .frame len da sa payload ck := by
  obtain ⟨-, hstop, hkeep⟩ := (wellFormed_frame_iff len da sa ck payload).1 h
  rw [classifyFrame, if_neg hstop, if_neg hkeep]

/-- One read is the read of its own bytes. -/
theorem rxImageOf_self (rx : RxImage) : rxImageOf rx.bytes = rx := by
  obtain ⟨bytes, fits⟩ := rx
  rw [rxImageOf]
  congr
  exact List.take_of_length_le fits

theorem encodeInput_of_decodeLine {rx : RxImage} {i : Instr} (h : decodeLine rx.bytes = .ok i) :
    encodeInput i = .line rx ∧ i.wellFormed = true := by
  obtain ⟨len, da, sa, payload, ck, hbytes, h1, h14, rfl⟩ := decodeLine_ok h
  rw [← rxImageOf_self rx, hbytes]
  exact encodeInput_classifyFrame len da sa ck ⟨h1, h14⟩

/-! The round trips of an address byte (30_encoding.md R67). -/

/-- The parity byte keeps the seven low bits (40_parity.md R90). -/
theorem extractLsb'_parityByte (v : Byte) (m : ParityMode) :
    (parityByte v m).extractLsb' 0 7 = v.extractLsb' 0 7 := by
  cases m <;> revert v <;> decide

/-- The parity byte is a function of the seven low bits (40_parity.md R90). -/
theorem parityByte_lowBits (v : Byte) (m : ParityMode) :
    parityByte ((v.extractLsb' 0 7).setWidth 8) m = parityByte v m := by
  cases m <;> revert v <;> decide

theorem extractLsb'_setWidth (a : BitVec 7) : (a.setWidth 8).extractLsb' 0 7 = a := by
  revert a; decide

/-- A byte with odd parity is an address byte of its seven low bits. -/
theorem decodeAddress_parityByte (v : Byte) :
    decodeAddress (parityByte v .odd) = .ok (.initAddress (v.extractLsb' 0 7)) := by
  rw [decodeAddress, if_pos (parityByte_idem v .odd), extractLsb'_parityByte]

theorem encodeInput_of_decodeAddress {b : Byte} {i : Instr} (h : decodeAddress b = .ok i) :
    encodeInput i = .address b ∧ i.wellFormed = true := by
  obtain ⟨hb, rfl⟩ := decodeAddress_ok h
  rw [encodeInput, parityByte_lowBits, hb]
  exact ⟨rfl, rfl⟩

/-! The packets that are commands (30_encoding.md R77). -/

theorem fitsLayout_of_decodePacket {bytes : List Byte} {i : Instr} (h : decodePacket bytes = .ok i) :
    FitsLayout bytes := by
  obtain ⟨v, mb, m, rfl, hm, rfl⟩ | ⟨f, b3, b2, b1, b0, t, s, rfl, rfl⟩ | ⟨rfl, rfl⟩ | ⟨rfl, rfl⟩ |
    ⟨d, s, len, p, rfl, hl, rfl⟩ | ⟨t1, t0, rfl, rfl⟩ | ⟨t1, t0, d, s, len, p, rfl, hl, rfl⟩ :=
    decodePacket_ok h
  · obtain rfl := (parityModeOf_eq_some mb m).1 hm
    cases m with
    | even => exact ⟨_, rfl, .inl ⟨rfl, rfl, .inl rfl⟩⟩
    | odd => exact ⟨_, rfl, .inl ⟨rfl, rfl, .inr rfl⟩⟩
  · exact ⟨_, rfl, .inr (.inl ⟨rfl, rfl⟩)⟩
  · exact ⟨_, rfl, .inr (.inr (.inl ⟨rfl, rfl⟩))⟩
  · exact ⟨_, rfl, .inr (.inr (.inr (.inl ⟨rfl, rfl⟩)))⟩
  · exact ⟨_, rfl, .inr (.inr (.inr (.inr (.inl ⟨rfl, len, rfl, length_send hl⟩))))⟩
  · exact ⟨_, rfl, .inr (.inr (.inr (.inr (.inr (.inl ⟨rfl, rfl⟩)))))⟩
  · exact ⟨_, rfl, .inr (.inr (.inr (.inr (.inr (.inr ⟨rfl, len, rfl, length_reqresp hl⟩)))))⟩

theorem decodePacket_of_fitsLayout {bytes : List Byte} (h : FitsLayout bytes) :
    ∃ i, decodePacket bytes = .ok i := by
  obtain ⟨op, hop, hlayout⟩ := h
  obtain ⟨ops, rfl⟩ := List.head?_eq_some_iff.1 hop
  obtain ⟨rfl, hl, hm⟩ | ⟨rfl, hl⟩ | ⟨rfl, hl⟩ | ⟨rfl, hl⟩ | ⟨rfl, len, hlen, hl⟩ | ⟨rfl, hl⟩ |
    ⟨rfl, len, hlen, hl⟩ := hlayout
  · match ops, hl with
    | [v, mb], _ =>
      obtain hm | hm := hm
      · obtain rfl : mb = 0x00 := by simpa using hm
        exact ⟨_, decodePacket_parity v .even⟩
      · obtain rfl : mb = 0x01 := by simpa using hm
        exact ⟨_, decodePacket_parity v .odd⟩
  · match ops, hl with
    | [f, b3, b2, b1, b0, t, s], _ => exact ⟨_, decodePacket_start f b3 b2 b1 b0 t s⟩
  · match ops, hl with
    | [], _ => exact ⟨.stop, rfl⟩
  · match ops, hl with
    | [], _ => exact ⟨.idle, rfl⟩
  · match ops, hlen with
    | d :: s :: l :: p, hlen =>
      obtain rfl : l = len := by simpa using hlen
      exact ⟨_, decodePacket_send d s (by simp only [List.length_cons] at hl; omega)⟩
  · match ops, hl with
    | [t1, t0], _ => exact ⟨_, decodePacket_recv t1 t0⟩
  · match ops, hlen with
    | t1 :: t0 :: d :: s :: l :: p, hlen =>
      obtain rfl : l = len := by simpa using hlen
      exact ⟨_, decodePacket_reqresp t1 t0 d s (by simp only [List.length_cons] at hl; omega)⟩

/-- Where a packet tells its length, more bytes behind it change nothing (30_encoding.md R78). -/
theorem packetLength_append {bytes : List Byte} {i : Instr} (h : decodePacket bytes = .ok i)
    (more : List Byte) : packetLength (bytes ++ more) = some bytes.length := by
  obtain ⟨v, mb, m, rfl, -, rfl⟩ | ⟨f, b3, b2, b1, b0, t, s, rfl, rfl⟩ | ⟨rfl, rfl⟩ | ⟨rfl, rfl⟩ |
    ⟨d, s, len, p, rfl, hl, rfl⟩ | ⟨t1, t0, rfl, rfl⟩ | ⟨t1, t0, d, s, len, p, rfl, hl, rfl⟩ :=
    decodePacket_ok h
  · rfl
  · rfl
  · rfl
  · rfl
  · exact congrArg some (length_send hl).symm
  · rfl
  · exact congrArg some (length_reqresp hl).symm

end Sys2Proof
end

section
/-! SUPPORT. The family 30_encoding.md: the fields of a frame, the response packets of each command, and the
statements. -/

namespace Sys2Proof.Machine

/-! The fields of a frame. -/

theorem toNat_lenByte {L : Nat} (h : L ≤ 126) : (lenByte L).toNat = 0x80 + L + 1 := by
  rw [lenByte, BitVec.toNat_ofNat]
  exact Nat.mod_eq_of_lt (by unfold lenBase; omega)

/-- An address that is given is used, the session's only in its place (30_encoding.md R62). -/
theorem pickAddress_eq (explicit fallback : Byte) :
    pickAddress explicit fallback = if explicit ≠ 0 then explicit else fallback := by
  rw [pickAddress, ite_not]

/-- The init type is all that START takes from its flags (30_encoding.md R72). -/
theorem initType_eq_of_low_bits {flags flags' : Byte} (h : flags &&& 0x03 = flags' &&& 0x03) :
    initType flags = initType flags' := by
  have hlow : ∀ f : Byte, initType f = initType (f &&& 0x03) := by decide
  rw [hlow flags, hlow flags', h]

/-! The response of each command. -/

/-- The command answers once, with its own response or with one of its own errors. -/
def AnswersAs (i : Instr) (s t : State) : Prop :=
  ∃ p, t.responses = s.responses ++ [p] ∧ (OkAnswer i p ∨ ErrorAnswer i p)

theorem AnswersAs.of_respond {i : Instr} {s u : State} (h : u.responses = s.responses) {p : List Byte}
    (hp : OkAnswer i p) : AnswersAs i s (u.respond p) :=
  ⟨p, by rw [State.respond_responses, h], .inl hp⟩

theorem AnswersAs.of_raise {i : Instr} {s u : State} (h : u.responses = s.responses) {k : CmdError}
    (hk : ErrorAnswer i (errorPacket k)) : AnswersAs i s (u.raise k) :=
  ⟨_, by rw [State.raise_responses, h], .inr hk⟩

/-- The errors of an exchange with the transport (60_exceptions.md R150). -/
def ExchangeError : CmdError → Prop
  | .badLength => True
  | .transportError _ => True
  | .outOfMemory => False
  | .protocolNotSupported => False
  | .initNotSupported => False
  | .wrongKeyBytes => False
  | .badState => False
  | .badCommand => False

theorem transportErrorAnswer_errorPacket (e : TErr) :
    TransportErrorAnswer (errorPacket (.transportError e)) :=
  ⟨e.code, e.nonzero, rfl⟩

/-- The error packets of an exchange are in the table's rows of SEND, RECV and REQRESP. -/
theorem ExchangeError.errorPacket_cases {k : CmdError} (h : ExchangeError k) :
    errorPacket k ∈ ([[0x01], [0x0E]] : List (List Byte)) ∨ TransportErrorAnswer (errorPacket k) := by
  cases k with
  | badLength => exact .inl (.head _)
  | transportError e => exact .inr (transportErrorAnswer_errorPacket e)
  | outOfMemory | protocolNotSupported | initNotSupported | wrongKeyBytes | badState | badCommand =>
    cases h

theorem framerSend_error {ss : Session} {m : OutMessage} {s : State} {k : CmdError}
    (h : (framerSend ss m s).1 = .error k) : ExchangeError k := by
  by_cases hl : 1 ≤ m.payload.length ∧ m.payload.length ≤ 14
  · rw [framerSend_legal ss m s hl] at h
    cases hr : answerToSend s with
    | ok => rw [transmit_ok _ s hr] at h; cases h
    | err e => rw [transmit_err _ s e hr] at h; cases h; trivial
  · rw [framerSend_badLength ss m s hl] at h
    cases h
    trivial

/-- A result of a receive: a message of 1 to 14 payload bytes, or an error of the exchange
(10_state.md R28, 42_framer.md R124 to R128). -/
def MessageResult : Except CmdError InMessage → Prop
  | .ok m => 1 ≤ m.payload.length ∧ m.payload.length ≤ 14
  | .error k => ExchangeError k

/-- One read of 5 to 18 bytes leaves 1 to 14 bytes of payload. -/
theorem receivedMessage_payload_length (tmo : Nat) {rx : RxImage} (s : State)
    (h : 5 ≤ rx.bytes.length) : 1 ≤ (receivedMessage tmo rx s).payload.length ∧
      (receivedMessage tmo rx s).payload.length ≤ 14 := by
  have hfits := rx.fits
  have hlen : (receivedMessage tmo rx s).payload.length = rx.bytes.length - 3 - 1 := by
    simp only [receivedMessage, decodeFrame, hdr, List.length_dropLast, List.length_drop]
  omega

theorem framerReceive_result (tmo : Nat) (s : State) : MessageResult (framerReceive tmo s).1 := by
  obtain ⟨e, -, h⟩ | ⟨rx, -, -, h⟩ | ⟨rx, -, hlen, h⟩ := framerReceive_cases tmo s
  · rw [h]; trivial
  · rw [h]; trivial
  · rw [h]; exact receivedMessage_payload_length tmo s hlen

theorem reqResp_result (ss : Session) (m : OutMessage) (tmo : Nat) (s : State) :
    MessageResult (reqResp ss m tmo s).1 := by
  by_cases hl : 1 ≤ m.payload.length ∧ m.payload.length ≤ 14
  · cases hr : answerToSend s with
    | ok => rw [reqResp_sent ss m tmo s hl hr]; exact framerReceive_result tmo _
    | err e => rw [reqResp_sendErr ss m tmo s e hl hr]; trivial
  · rw [reqResp_badLength ss m tmo s hl]; trivial

theorem finishSend_answersAs (dest src : Byte) (payload : List Byte) {s : State}
    {r : Except CmdError Unit × State} (hresponses : r.2.responses = s.responses)
    (h : ∀ k, r.1 = .error k → ExchangeError k) :
    AnswersAs (.send dest src payload) s (finishSend r) := by
  obtain ⟨k | _, u⟩ := r
  · exact .of_raise hresponses (h k rfl).errorPacket_cases
  · exact .of_respond hresponses rfl

/-- A message result is finished as the response of RECV or REQRESP, which have the same shapes. -/
theorem finishMessage_answersAs {i : Instr} {s : State} {r : Except CmdError InMessage × State}
    (hok : ∀ p, MessageAnswer p → OkAnswer i p)
    (herror : ∀ k, ExchangeError k → ErrorAnswer i (errorPacket k))
    (hresponses : r.2.responses = s.responses) (h : MessageResult r.1) :
    AnswersAs i s (finishMessage r) := by
  obtain ⟨k | m, u⟩ := r
  · exact .of_raise hresponses (herror k h)
  · obtain ⟨h1, h14⟩ := h
    exact .of_respond hresponses (hok _ ⟨m.dest, m.src, m.payload, m.time, h1, h14, rfl⟩)

theorem finishStop_answersAs {s : State} {r : Except CmdError InMessage × State}
    (h : r.2.responses = s.responses) : AnswersAs .stop s (finishStop r) := by
  obtain ⟨_ | _, u⟩ := r
  · exact .of_respond h rfl
  · exact .of_respond h rfl

/-- The handshake answers with the session it opened, WrongKeyBytes or the transport's error (41_session.md
R109, R110). -/
theorem handshake_answersAs (flags : Byte) (bitrate : Word32) (target source : Byte) (s : State) :
    AnswersAs (.start flags bitrate target source) s (handshake bitrate target source s) := by
  have hinit := afterInit_responses bitrate target source s
  cases hr : (beforeInit bitrate target source s).initAnswer with
  | err e =>
    rw [handshake_err bitrate target source s e hr]
    exact .of_raise hinit (.inr (transportErrorAnswer_errorPacket e))
  | ok kb1 kb2 =>
    rw [handshake_ok bitrate target source s kb1 kb2 hr]
    by_cases hk : kb1 = 0xD3 ∧ kb2 = 0xB0
    · obtain ⟨rfl, rfl⟩ := hk
      rw [checkKeyBytes_match]
      exact .of_respond hinit ⟨effectiveBitrate_ne_zero bitrate, rfl⟩
    · rw [checkKeyBytes_mismatch bitrate target source kb1 kb2 _ hk]
      exact .of_raise hinit (.inl (by decide))

/-- Each check of START that fails has its own status (41_session.md R100 to R102). -/
theorem execStart_answersAs (flags : Byte) (bitrate : Word32) (target source : Byte) {s t : State}
    (h : execStart flags bitrate target source s = .next t) :
    AnswersAs (.start flags bitrate target source) s t := by
  by_cases hf : s.fsm = .idle ∨ s.fsm = .closed
  · by_cases hc : s.capFullInit = true ∧ s.capCksum = true
    · by_cases hi : initType flags = 0
      · cases (execStart_handshake flags bitrate target source s hf hc hi).symm.trans h
        exact handshake_answersAs flags bitrate target source s
      · cases (execStart_otherInit flags bitrate target source s hf hc hi).symm.trans h
        exact .of_raise rfl (.inl (by decide))
    · cases (execStart_noCapability flags bitrate target source s hf hc).symm.trans h
      exact .of_raise rfl (.inl (by decide))
  · cases (execStart_badState flags bitrate target source s hf).symm.trans h
    exact .of_raise rfl (.inl (by decide))

/-- A command of a session that goes on has done its work with a session, or was refused. -/
theorem session_command_cases {s t : State} {o : Host.Outcome State Fault Refusal} (h : o = .next t)
    {done : Session → State}
    (hactive : s.fsm = .active → ∀ ss, s.sess = some ss → o = .next (done ss))
    (habsent : s.fsm = .active → s.sess = none → o = .fault .sessionAbsent)
    (hrefused : s.fsm ≠ .active → o = .next (s.raise .badState)) :
    (∃ ss, t = done ss) ∨ t = s.raise .badState := by
  by_cases hf : s.fsm = .active
  · cases hs : s.sess with
    | none => cases (habsent hf hs).symm.trans h
    | some ss =>
      cases (hactive hf ss hs).symm.trans h
      exact .inl ⟨ss, rfl⟩
  · cases (hrefused hf).symm.trans h
    exact .inr rfl

theorem execStop_answersAs {s t : State} (h : execStop s = .next t) : AnswersAs .stop s t := by
  obtain ⟨ss, rfl⟩ | rfl := session_command_cases h (fun hf ss hs => execStop_active s ss hf hs)
    (execStop_absent s) (execStop_refused s)
  · exact finishStop_answersAs (reqResp_responses ss _ _ (s.setFsm .stopping))
  · exact .of_raise rfl rfl

theorem execIdle_answersAs {s t : State} (h : execIdle s = .next t) : AnswersAs .idle s t := by
  obtain ⟨ss, rfl⟩ | rfl := session_command_cases h (fun hf ss hs => execIdle_active s ss hf hs)
    (execIdle_absent s) (execIdle_refused s)
  · exact .of_respond (reqResp_responses ss _ _ s) rfl
  · exact .of_raise rfl rfl

theorem execSend_answersAs (dest src : Byte) (payload : List Byte) {s t : State}
    (h : execSend dest src payload s = .next t) : AnswersAs (.send dest src payload) s t := by
  obtain ⟨ss, rfl⟩ | rfl := session_command_cases h
    (fun hf ss hs => execSend_active s ss dest src payload hf hs)
    (execSend_absent s dest src payload) (execSend_refused s dest src payload)
  · exact finishSend_answersAs dest src payload (framerSend_responses ss _ s)
      fun _ hk => framerSend_error hk
  · exact .of_raise rfl (.inl (by decide))

theorem execRecv_answersAs (timeout : Timeout) {s t : State} (h : execRecv timeout s = .next t) :
    AnswersAs (.recv timeout) s t := by
  by_cases hf : s.fsm = .active
  · cases (execRecv_active s timeout hf).symm.trans h
    exact finishMessage_answersAs (fun _ hp => hp) (fun _ hk => hk.errorPacket_cases)
      (framerReceive_responses _ s) (framerReceive_result _ s)
  · cases (execRecv_refused s timeout hf).symm.trans h
    exact .of_raise rfl (.inl (by decide))

theorem execReqresp_answersAs (timeout : Timeout) (dest src : Byte) (payload : List Byte) {s t : State}
    (h : execReqresp timeout dest src payload s = .next t) :
    AnswersAs (.reqresp timeout dest src payload) s t := by
  obtain ⟨ss, rfl⟩ | rfl := session_command_cases h
    (fun hf ss hs => execReqresp_active s ss dest src payload timeout hf hs)
    (execReqresp_absent s dest src payload timeout) (execReqresp_refused s dest src payload timeout)
  · exact finishMessage_answersAs (fun _ hp => hp) (fun _ hk => hk.errorPacket_cases)
      (reqResp_responses ss _ _ s) (reqResp_result ss _ _ s)
  · exact .of_raise rfl (.inl (by decide))

theorem exec_answersAs {i : Instr} {s t : State} (hi : isCommand i = true) (h : exec i s = .next t) :
    AnswersAs i s t := by
  cases i with
  | parity value mode => cases h; exact .of_respond rfl rfl
  | start flags bitrate target source => exact execStart_answersAs flags bitrate target source h
  | stop => exact execStop_answersAs h
  | idle => exact execIdle_answersAs h
  | send dest src payload => exact execSend_answersAs dest src payload h
  | recv timeout => exact execRecv_answersAs timeout h
  | reqresp timeout dest src payload => exact execReqresp_answersAs timeout dest src payload h
  | frame _ _ _ _ _ | frameStopsession _ _ _ | frameKeepalive _ _ _ | initAddress _ | initKeybytes =>
    cases hi

/-! The responses so far. -/

/-- A packet from a list of error statuses alone, all of them the table's (30_encoding.md R75). -/
theorem packetOk_of_mem {ps : List (List Byte)} {p : List Byte} (h : p ∈ ps)
    (hps : ∀ q ∈ ps, q ∈ ([[0x01], [0x03], [0x04], [0x05], [0x0E], [0x0F]] : List (List Byte))) :
    PacketOk p := .inr (.inr (.inr (.inr (.inr (hps p h)))))

theorem packetOk_of_transportError {p : List Byte} (h : TransportErrorAnswer p) : PacketOk p :=
  .inr (.inr (.inr (.inr (.inl h))))

theorem packetOk_of_message {p : List Byte} (h : MessageAnswer p) : PacketOk p :=
  .inr (.inr (.inr (.inl h)))

theorem OkAnswer.packetOk {i : Instr} {p : List Byte} (h : OkAnswer i p) : PacketOk p := by
  cases i with
  | parity value mode => exact .inr (.inl ⟨_, h⟩)
  | start flags bitrate target source => exact .inr (.inr (.inl ⟨_, _, _, h⟩))
  | stop | idle | send _ _ _ => exact .inl h
  | recv _ | reqresp _ _ _ _ => exact packetOk_of_message h
  | frame _ _ _ _ _ | frameStopsession _ _ _ | frameKeepalive _ _ _ | initAddress _ | initKeybytes =>
    cases h

theorem ErrorAnswer.packetOk {i : Instr} {p : List Byte} (h : ErrorAnswer i p) : PacketOk p := by
  cases i with
  | start _ _ _ _ =>
    obtain h | h := h
    · exact packetOk_of_mem h (by decide)
    · exact packetOk_of_transportError h
  | stop | idle => exact packetOk_of_mem (List.mem_singleton.2 h) (by decide)
  | send _ _ _ | recv _ | reqresp _ _ _ _ =>
    obtain h | h := h
    · exact packetOk_of_mem h (by decide)
    · exact packetOk_of_transportError h
  | parity _ _ | frame _ _ _ _ _ | frameStopsession _ _ _ | frameKeepalive _ _ _ | initAddress _
  | initKeybytes => cases h

theorem ResponsesOk.of_same {s t : State} (h : ResponsesOk s) (hr : t.responses = s.responses) :
    ResponsesOk t := by
  unfold ResponsesOk
  rwa [hr]

theorem ResponsesOk.of_append {s t : State} (h : ResponsesOk s) {p : List Byte}
    (hr : t.responses = s.responses ++ [p]) (hp : PacketOk p) : ResponsesOk t := by
  unfold ResponsesOk
  rw [hr, List.forall_mem_append, List.forall_mem_singleton]
  exact ⟨h, hp⟩

theorem exec_responsesOk (i : Instr) (s t : State) (hs : ResponsesOk s) (h : exec i s = .next t) :
    ResponsesOk t := by
  cases hi : isCommand i with
  | true =>
    obtain ⟨p, hr, hok | herror⟩ := exec_answersAs hi h
    · exact hs.of_append hr hok.packetOk
    · exact hs.of_append hr herror.packetOk
  | false =>
    obtain ⟨-, -, hr, -⟩ := exec_wireItem_frame hi h
    exact hs.of_same hr

theorem deliver_responsesOk (x : PortInput) (s : State) (hs : ResponsesOk s) :
    ResponsesOk (s.deliver x) := by
  cases x with
  | packet bytes => exact hs.of_append rfl (packetOk_of_mem (List.mem_singleton.2 rfl) (by decide))
  | line _ | address _ | initAnswer _ | sendAnswer _ | receiveError _ | capabilities _ _ | reset
  | resetDuring _ _ => exact hs.of_same rfl

/-- A command cut short gives no response (70_reset_and_hazards.md R181). -/
theorem abandonedAt_responses (events : Nat) (s full : State) :
    (abandonedAt events s full).responses = s.responses := by
  obtain ⟨-, -, -, -, -, hr⟩ := s.replay_frame ((full.trace.drop s.trace.length).take events)
  exact hr

/-! The statements. -/

/-- Settles O7, by the round trip of each row. -/
theorem decodingAnEncodedInstructionGivesItBack :
    Obligations.DecodingAnEncodedInstructionGivesItBack := by
  intro i hi
  cases i with
  | parity value mode => exact decodePacket_parity value mode
  | start flags bitrate target source =>
    exact (decodePacket_start _ _ _ _ _ _ _).trans (by rw [fromBe32_be32])
  | stop => rfl
  | idle => rfl
  | send dest src payload =>
    exact decodePacket_send dest src (length_eq_toNat_lengthByte (of_decide_eq_true hi))
  | recv timeout => exact (decodePacket_recv _ _).trans (by rw [fromBe16_be16])
  | reqresp timeout dest src payload =>
    exact (decodePacket_reqresp _ _ dest src (length_eq_toNat_lengthByte (of_decide_eq_true hi))).trans
      (by rw [fromBe16_be16])
  | frame len da sa payload ck =>
    obtain ⟨hlen, -⟩ := (wellFormed_frame_iff len da sa ck payload).1 hi
    exact (decode_line_frame len da sa ck hlen).trans (by rw [classifyFrame_of_wellFormed hi])
  | frameStopsession da sa ck => rfl
  | frameKeepalive da sa ck => rfl
  | initAddress a =>
    exact (decodeAddress_parityByte _).trans (by rw [extractLsb'_setWidth])
  | initKeybytes => rfl

/-- Settles O8, port by port. -/
theorem onlyItsOwnEncodingDecodesToAnInstruction :
    Obligations.OnlyItsOwnEncodingDecodesToAnInstruction := by
  intro x i h
  cases x with
  | packet bytes => exact encodeInput_of_decodePacket h
  | line rx => exact encodeInput_of_decodeLine h
  | address b => exact encodeInput_of_decodeAddress h
  | initAnswer r =>
    obtain ⟨rfl, rfl⟩ := decodeInitAnswer_ok h
    exact ⟨rfl, rfl⟩
  | sendAnswer _ | receiveError _ | capabilities _ _ | reset | resetDuring _ _ => cases h

/-- Settles O4: the layouts are what the decoder reads. -/
theorem packetIsDefinedExactlyByTheLayouts : Obligations.PacketIsDefinedExactlyByTheLayouts := by
  intro bytes
  exact ⟨fun ⟨_, h⟩ => fitsLayout_of_decodePacket h, decodePacket_of_fitsLayout⟩

/-- Settles O3: such a packet does not decode, so it is delivered as an undefined one. -/
theorem undefinedPacketGetsBadCommand : Obligations.UndefinedPacketGetsBadCommand := by
  intro s bytes rest hin hlayout
  cases hd : decodePacket bytes with
  | ok i => exact absurd (fitsLayout_of_decodePacket hd) hlayout
  | undefined why =>
    have hstep : step s = .next ((s.fetched rest).raise .badCommand) :=
      step_delivers hin hd fun _ _ => nofun
    exact ⟨_, hstep, rfl, rfl, ⟨rfl, rfl⟩, ⟨rfl, rfl, rfl, rfl⟩, rfl, rfl, rfl, Nat.le_add_right _ _⟩

/-- Settles O5, layout by layout. -/
theorem packetLengthIsFoundFromTheFirstBytes : Obligations.PacketLengthIsFoundFromTheFirstBytes := by
  intro bytes more i h
  refine ⟨packetLength_append h more, ?_⟩
  obtain ⟨v, mb, m, rfl, -, rfl⟩ | ⟨f, b3, b2, b1, b0, t, s, rfl, rfl⟩ | ⟨rfl, rfl⟩ | ⟨rfl, rfl⟩ |
    ⟨d, s, len, p, rfl, hl, rfl⟩ | ⟨t1, t0, rfl, rfl⟩ | ⟨t1, t0, d, s, len, p, rfl, hl, rfl⟩ :=
    decodePacket_ok h
  · exact ⟨fun _ _ _ => rfl, nofun, nofun, nofun, nofun, nofun, nofun⟩
  · exact ⟨nofun, fun _ _ _ _ _ => rfl, nofun, nofun, nofun, nofun, nofun⟩
  · exact ⟨nofun, nofun, fun _ => rfl, nofun, nofun, nofun, nofun⟩
  · exact ⟨nofun, nofun, nofun, fun _ => rfl, nofun, nofun, nofun⟩
  · exact ⟨nofun, nofun, nofun, nofun, fun _ _ _ _ => ⟨len, rfl, length_send hl⟩, nofun, nofun⟩
  · exact ⟨nofun, nofun, nofun, nofun, nofun, fun _ _ => rfl, nofun⟩
  · exact ⟨nofun, nofun, nofun, nofun, nofun, nofun, fun _ _ _ _ _ => ⟨len, rfl, length_reqresp hl⟩⟩

/-- Settles O54, command by command. -/
theorem eachCommandAnswersInItsOwnShape : Obligations.EachCommandAnswersInItsOwnShape := by
  intro i s t hi h
  exact exec_answersAs hi h

/-- Settles O47: every command answers in one of its shapes, an undefined packet with BadCommand, and
nothing else answers. -/
theorem stepKeepsTheResponsesLegal : Obligations.StepKeepsTheResponsesLegal := by
  intro s t hs h
  exact step_keeps (fun _ _ hs => hs.of_same rfl) exec_responsesOk deliver_responsesOk
    (fun _ s full events hs _ => hs.of_same (abandonedAt_responses events s full)) hs h

/-- Settles O6: each word is evaluated. -/
theorem writtenOutWordsDecode : Obligations.WrittenOutWordsDecode :=
  ⟨rfl, rfl, rfl, rfl, rfl, rfl, rfl, rfl, rfl, rfl, rfl, rfl, rfl⟩

/-- Settles O10: each expansion is its definition's case. -/
theorem pseudoInstructionsExpand : Obligations.PseudoInstructionsExpand :=
  ⟨fun _ => rfl, fun _ _ => rfl, fun _ _ => rfl⟩

/-- Settles O14: the value by arithmetic, its bits for each of the fourteen lengths. -/
theorem lengthByteOfTheLegalLengths : Obligations.LengthByteOfTheLegalLengths := by
  intro L h1 h14
  refine ⟨toNat_lenByte (by omega), ?_⟩
  interval_cases L <;> decide

/-- Settles O15, from the definition of the fallback. -/
theorem addressesFallBackOnlyOnTheWayOut : Obligations.AddressesFallBackOnlyOnTheWayOut := by
  refine ⟨fun m ss => ⟨?_, ?_⟩, fun len da sa rest => ⟨rfl, rfl⟩⟩
  · exact congrArg some (pickAddress_eq m.dest ss.dst)
  · exact congrArg some (pickAddress_eq m.src ss.src)

/-- Settles O16: both addresses of a control message are unset, so they are the session's. -/
theorem controlMessagesAsFrames : Obligations.ControlMessagesAsFrames := by
  intro ss ck
  exact ⟨rfl, rfl, rfl, rfl⟩

/-- Settles O17, from the laws of the parity byte. -/
theorem initAddressByteIsTheTargetWithOddParity :
    Obligations.InitAddressByteIsTheTargetWithOddParity := by
  intro target
  refine ⟨by rw [encode, parityByte_lowBits], fun k hk => ?_, decodeAddress_parityByte target⟩
  have hlow := congrArg (·.getLsbD k) (extractLsb'_parityByte target .odd)
  simpa [hk] using hlow

/-- Settles O22: START reads its flags through the init type only. -/
theorem startIgnoresTheHighFlagBits : Obligations.StartIgnoresTheHighFlagBits := by
  intro s flags flags' bitrate target source h
  simp only [exec, execStart, initType_eq_of_low_bits h]

/-- Settles O38: five bytes are one read. -/
theorem controlFramesOnTheLineWait : Obligations.ControlFramesOnTheLineWait := by
  intro s da sa ck
  exact ⟨_, _, rfl, rfl, rfl, rfl⟩

end Sys2Proof.Machine
end

section
/-! SUPPORT. The family 40_parity.md: the parity byte bit by bit, what it reads of its operand, and the
command. -/

namespace Sys2Proof.Machine

/-! The parity byte bit by bit (40_parity.md R90). -/

theorem getLsbD_parityByte (v : Byte) (m : ParityMode) (k : Nat) :
    (parityByte v m).getLsbD k =
      if k < 7 then (v.extractLsb' 0 7).getLsbD k else (BitVec.ofBool (parityBit v m)).getLsbD (k - 7) :=
  BitVec.getLsbD_append

theorem getLsbD_parityByte_of_lt_seven (v : Byte) (m : ParityMode) {k : Nat} (hk : k < 7) :
    (parityByte v m).getLsbD k = v.getLsbD k := by
  simp [getLsbD_parityByte, hk]

theorem getLsbD_parityByte_seven (v : Byte) (m : ParityMode) :
    (parityByte v m).getLsbD 7 = parityBit v m := by
  rw [getLsbD_parityByte, if_neg (by decide)]
  simp

theorem paritySeed_eq_decide (m : ParityMode) : paritySeed m = decide (m = .odd) := by
  cases m with
  | even => rfl
  | odd => rfl

/-- The number of elements that pass is odd exactly when the fold of the answers by exclusive or is true. -/
theorem odd_countP_iff_foldr_xor {α : Type} (f : α → Bool) (l : List α) :
    l.countP f % 2 = 1 ↔ l.foldr (fun a acc => f a ^^ acc) false = true := by
  induction l with
  | nil => simp
  | cons a l ih =>
    rw [List.countP_cons, List.foldr_cons]
    cases hf : f a with
    | false => simpa using ih
    | true =>
      rw [if_pos rfl, Bool.true_xor, Bool.not_eq_true', ← Bool.not_eq_true, ← ih]
      omega

/-- The bits of the result fold to the seed: the parity bit cancels the seven low bits. -/
theorem foldr_xor_parityByte (v : Byte) (m : ParityMode) :
    (List.range 8).foldr (fun k acc => (parityByte v m).getLsbD k ^^ acc) false = paritySeed m := by
  have hlow {k : Nat} (hk : k < 7) := getLsbD_parityByte_of_lt_seven v m hk
  have hrange : List.range 8 = [0, 1, 2, 3, 4, 5, 6, 7] := rfl
  simp [hrange, hlow, getLsbD_parityByte_seven, parityBit, ← BitVec.getLsbD_eq_getElem,
    Bool.xor_comm, Bool.xor_left_comm]

/-! What the parity byte reads of its operand: the seven low bits (40_parity.md R92). -/

/-- Masking with 0x7F is taking the seven low bits. -/
theorem and_lowMask (v : Byte) : v &&& 0x7F = (v.extractLsb' 0 7).setWidth 8 := by
  revert v; decide

theorem parityByte_and_lowMask (v : Byte) (m : ParityMode) : parityByte (v &&& 0x7F) m = parityByte v m := by
  rw [and_lowMask, parityByte_lowBits]

theorem parityByte_congr {v w : Byte} (h : v &&& 0x7F = w &&& 0x7F) (m : ParityMode) :
    parityByte v m = parityByte w m := by
  rw [← parityByte_and_lowMask v, h, parityByte_and_lowMask]

theorem or_highBit_and_lowMask (v : Byte) : (v ||| 0x80) &&& 0x7F = v &&& 0x7F := by
  revert v; decide

theorem parityByte_and_lowMask_eq (v : Byte) (m : ParityMode) : parityByte v m &&& 0x7F = v &&& 0x7F := by
  rw [and_lowMask, and_lowMask, extractLsb'_parityByte]

/-- The two modes differ in the seed, so in the parity bit alone. -/
theorem parityByte_odd_eq_even_xor (v : Byte) : parityByte v .odd = parityByte v .even ^^^ 0x80 := by
  revert v; decide

/-! The command (40_parity.md R91). -/

theorem exec_parity (s : State) (v : Byte) (m : ParityMode) :
    exec (.parity v m) s = .next (s.respond (parityPacket (parityByte v m))) := rfl

theorem decodePacket_parity_of_reserved {mode : Byte} (h : parityModeOf mode = none) (v : Byte) :
    decodePacket [0x01, v, mode] = .undefined .reservedMode := by
  have hops : decodePacket [0x01, v, mode] = decodeParity [v, mode] := rfl
  rw [hops, decodeParity, h]

/-! The statements. -/

/-- Settles O11: the bits of the result one by one, then the fold of all eight. -/
theorem parityIsOverTheSevenLowBits : Obligations.ParityIsOverTheSevenLowBits := by
  intro v m
  refine ⟨fun k hk => getLsbD_parityByte_of_lt_seven v m hk, ?_, ?_⟩
  · rw [getLsbD_parityByte_seven, ← paritySeed_eq_decide]
    rfl
  · rw [odd_countP_iff_foldr_xor, foldr_xor_parityByte, paritySeed_eq_decide, decide_eq_true_iff]

/-- Settles O12: the corner cases by evaluation, the laws because only the seven low bits are read and kept. -/
theorem parityCornerCasesAndLaws : Obligations.ParityCornerCasesAndLaws := by
  refine ⟨rfl, rfl, rfl, rfl, rfl, fun v => ⟨parityByte_odd_eq_even_xor v, fun m => ?_⟩⟩
  exact ⟨parityByte_and_lowMask_eq v m, (parityByte_and_lowMask v m).symm,
    parityByte_congr (or_highBit_and_lowMask v).symm m, parityByte_idem v m⟩

/-- Settles O13: the command reads nothing of the state, and its mode byte is one of two. -/
theorem parityCommandAnswersInEveryState : Obligations.ParityCommandAnswersInEveryState := by
  refine ⟨exec_parity, fun v mode => ?_⟩
  split
  case isTrue heven =>
    subst heven
    exact decodePacket_parity v .even
  case isFalse heven =>
    split
    case isTrue hodd =>
      subst hodd
      exact decodePacket_parity v .odd
    case isFalse hodd =>
      have hnone : parityModeOf mode = none := by rw [parityModeOf, if_neg heven, if_neg hodd]
      exact decodePacket_parity_of_reserved hnone v

end Sys2Proof.Machine
end

section
/-! SUPPORT. The family 41_session.md: START after the answer of `T.initBus`, the exchange that STOP and IDLE
share, and the statements. -/

namespace Sys2Proof.Machine

/-! Between two commands, outside a session (10_state.md R26). -/

theorem SessionOk.idle_or_closed_of_not_active {s : State} (h : SessionOk s) (hf : s.fsm ≠ .active) :
    s.fsm = .idle ∨ s.fsm = .closed := by
  obtain ⟨hidle | hactive | hclosed, -⟩ := h
  · exact .inl hidle
  · exact absurd hactive hf
  · exact .inr hclosed

theorem SessionOk.noSession_of_not_active {s : State} (h : SessionOk s) (hf : s.fsm ≠ .active) :
    s.sess = none := by
  obtain ⟨-, hiff, -⟩ := h
  exact Option.not_isSome_iff_eq_none.1 (mt hiff.2 hf)

/-! START. -/

/-- START's events are one run, from the state in which its session has come into being (41_session.md R103
to R107). -/
theorem afterInit_eq_performAll (bitrate : Word32) (target source : Byte) (s : State) :
    afterInit bitrate target source s =
      performAll (startingOf bitrate target source (beforeInit bitrate target source s).initAnswer)
        ((s.setFsm .initializing).setSession (newSession bitrate target source s.draws)) := by
  have hevents (r : InitAnswer) : startingOf bitrate target source r =
      startEvents bitrate source ++ [.initBus .slow5Baud (parityByte target .odd) r] := by
    rw [startEvents, List.append_assoc]
    rfl
  rw [hevents, performAll_append]
  rfl

/-- The answer of `T.initBus` decides on the block and the response; the world outside is as the events left
it (41_session.md R108 to R110). -/
theorem handshake_sameWorld (bitrate : Word32) (target source : Byte) (s : State) :
    SameWorld (afterInit bitrate target source s) (handshake bitrate target source s) := by
  obtain ⟨k, h⟩ | ⟨p, h⟩ := handshake_cases bitrate target source s
  · rw [h]; exact SameWorld.refl _
  · rw [h]; exact SameWorld.refl _

theorem handshake_happened (bitrate : Word32) (target source : Byte) (s : State) :
    Happened .initializing
      (startingOf bitrate target source (beforeInit bitrate target source s).initAnswer) s
      (handshake bitrate target source s) := by
  unfold Happened
  rw [(handshake_sameWorld bitrate target source s).trace_eq, afterInit_eq_performAll]
  exact performAll_trace _ _

/-- The settle delay is one of the waits of START (41_session.md R106). -/
theorem settleDelay_le_waits (bitrate : Word32) (target source : Byte) (r : InitAnswer) :
    300 ≤ ((startingOf bitrate target source r).map waitOf).sum := by
  simp [startingOf, waitOf]

theorem handshake_clock (bitrate : Word32) (target source : Byte) (s : State) :
    s.clock + 300 ≤ (handshake bitrate target source s).clock := by
  rw [(handshake_sameWorld bitrate target source s).clock_eq, afterInit_eq_performAll]
  exact le_trans (Nat.add_le_add_left (settleDelay_le_waits bitrate target source _) s.clock)
    (performAll_waits _ ((s.setFsm .initializing).setSession _))

/-- What START leaves in the transport: the line is set, the flush has dropped the input, and one answer to
`T.initBus` is used up (41_session.md R105 to R107). -/
theorem handshake_transport (bitrate : Word32) (target source : Byte) (s : State) :
    (handshake bitrate target source s).line = some ⟨effectiveBitrate bitrate, 8, 1, .none⟩ ∧
    (handshake bitrate target source s).rx = s.rx.filter (fun a => !isInput a) ∧
    (handshake bitrate target source s).initAnswers = s.initAnswers.tail ∧
    (handshake bitrate target source s).sendAnswers = s.sendAnswers := by
  obtain ⟨hline, hrx, hinit, hsend, -⟩ := handshake_sameWorld bitrate target source s
  rw [hline, hrx, hinit, hsend, afterInit_line, afterInit_eq_performAll]
  by_cases hsrc : source = Config.testerAddr
  · rw [startingOf, if_pos hsrc]
    exact ⟨rfl, rfl, rfl, rfl⟩
  · rw [startingOf, if_neg hsrc]
    exact ⟨rfl, rfl, rfl, rfl⟩

/-- On the expected pair the handshake ends Active with its session (41_session.md R109). -/
theorem handshake_of_keyBytes {bitrate : Word32} {target source : Byte} {s : State}
    (h : (beforeInit bitrate target source s).initAnswer = .ok 0xD3 0xB0) :
    (handshake bitrate target source s).fsm = .active ∧
    (handshake bitrate target source s).sess = some (startedSession bitrate target source) ∧
    (handshake bitrate target source s).responses =
      s.responses ++ [sessionPacket (startedSession bitrate target source)] := by
  rw [handshake_ok bitrate target source s _ _ h, checkKeyBytes_match]
  exact ⟨rfl, rfl, congrArg (· ++ _) (afterInit_responses bitrate target source s)⟩

/-- The failure path: the session is released and the error raised (41_session.md R110). -/
theorem release_raise_closed {s u : State} (h : u.responses = s.responses) (k : CmdError) :
    (u.release.raise k).fsm = .closed ∧ (u.release.raise k).sess = none ∧
      (u.release.raise k).responses = s.responses ++ [errorPacket k] :=
  ⟨rfl, rfl, congrArg (· ++ _) h⟩

theorem handshake_of_otherBytes {bitrate : Word32} {target source kb1 kb2 : Byte} {s : State}
    (h : (beforeInit bitrate target source s).initAnswer = .ok kb1 kb2)
    (hk : ¬(kb1 = 0xD3 ∧ kb2 = 0xB0)) :
    (handshake bitrate target source s).fsm = .closed ∧
    (handshake bitrate target source s).sess = none ∧
    (handshake bitrate target source s).responses = s.responses ++ [[0x05]] := by
  rw [handshake_ok bitrate target source s _ _ h, checkKeyBytes_mismatch bitrate target source _ _ _ hk]
  exact release_raise_closed (afterInit_responses bitrate target source s) .wrongKeyBytes

theorem handshake_of_err {bitrate : Word32} {target source : Byte} {s : State} {e : TErr}
    (h : (beforeInit bitrate target source s).initAnswer = .err e) :
    (handshake bitrate target source s).fsm = .closed ∧
    (handshake bitrate target source s).sess = none ∧
    (handshake bitrate target source s).responses = s.responses ++ [[0x06, e.code]] := by
  rw [handshake_err bitrate target source s e h]
  exact release_raise_closed (afterInit_responses bitrate target source s) (.transportError e)

/-- The handshake does not read the FSM state it starts from (41_session.md R100, R103). -/
theorem handshake_setFsm (bitrate : Word32) (target source : Byte) (s : State) (f : Fsm) :
    handshake bitrate target source { s with fsm := f } = handshake bitrate target source s := rfl

/-! The exchange of STOP and IDLE. -/

/-- The events of a command that makes a control exchange with the answers `r` and `q`: the frame, one
receive with budget 1100 when it was sent, and the time on a frame; `fallback` is what follows when there
was none (41_session.md R112, R114). -/
inductive ControlRun (tx : List Byte) (fallback : List Event) :
    SendAnswer → RecvAnswer → List Event → Prop
  | unsent (e : TErr) (q : RecvAnswer) :
      ControlRun tx fallback (.err e) q (sendingOf tx (.err e) ++ fallback)
  | unanswered {q : RecvAnswer} (hq : ∀ rx, q = .ok rx → rx.bytes.length < 5) :
      ControlRun tx fallback .ok q (sendingOf tx .ok ++ .receive 18 1100 q :: fallback)
  | answered {rx : RxImage} (hrx : 5 ≤ rx.bytes.length) (time : Word32) :
      ControlRun tx fallback .ok (.ok rx) (sendingOf tx .ok ++ [.receive 18 1100 (.ok rx), .now time])

/-- What follows an exchange: nothing when it gave a message, else `fallback`. -/
def fallbackOn (fallback : List Event) : Except CmdError InMessage → List Event
  | .ok _ => []
  | .error _ => fallback

@[simp] theorem fallbackOn_nil (r : Except CmdError InMessage) : fallbackOn [] r = [] := by
  cases r <;> rfl

/-- STOP's warning and wait (41_session.md R112). -/
def stopFallback : List Event := [.warn .stopNotAcknowledged, .wait 5000]

theorem finishStop_eq (r : Except CmdError InMessage × State) :
    finishStop r = (performAll (fallbackOn stopFallback r.1) r.2).release.respond okPacket := by
  obtain ⟨_ | _, u⟩ := r <;> rfl

/-- A control exchange and what follows it are a run of events with the answers that the transport gives,
the settled ones first. -/
theorem reqResp_controlRun (ss : Session) (b : Byte) (fallback : List Event) (s : State) :
    ∃ r q es, (∀ a, s.sendAnswers.head? = some a → r = a) ∧ (∀ a, s.rx.head? = some a → q = a) ∧
      ControlRun (encodeFrame (controlMessage b) ss) fallback r q es ∧
      performAll (fallbackOn fallback (reqResp ss (controlMessage b) tCtlMs s).1)
        (reqResp ss (controlMessage b) tCtlMs s).2 = performAll es s := by
  have hlegal : 1 ≤ (controlMessage b).payload.length ∧ (controlMessage b).payload.length ≤ 14 := by
    simp [controlMessage]
  have hr := answerToSend_of_head s
  have hq := (afterSend ss (controlMessage b) s).recvAnswer_of_head
  cases hsend : answerToSend s with
  | err e =>
    rw [reqResp_sendErr ss _ tCtlMs s e hlegal hsend]
    rw [hsend] at hr
    exact ⟨_, _, _, hr, hq, .unsent e _, rfl⟩
  | ok =>
    rw [reqResp_sent ss _ tCtlMs s hlegal hsend]
    rw [hsend] at hr
    obtain ⟨e, hrecv, he⟩ | ⟨rx, hrecv, hrx, he⟩ | ⟨rx, hrecv, hrx, he⟩ :=
      framerReceive_cases tCtlMs (afterSend ss (controlMessage b) s)
    · rw [he]
      rw [hrecv] at hq
      exact ⟨_, _, _, hr, hq, .unanswered nofun, rfl⟩
    · rw [he]
      rw [hrecv] at hq
      exact ⟨_, _, _, hr, hq, .unanswered fun _ h => by cases h; exact hrx, rfl⟩
    · rw [he]
      rw [hrecv] at hq
      exact ⟨_, _, _, hr, hq, .answered hrx _, rfl⟩

/-- An exchange without an answer costs STOP its fallback wait on top (41_session.md R112). -/
theorem stopFallback_clock_le (tx : List Byte) (r : SendAnswer) (es : List Event) (s : State) :
    s.clock + Config.msgGapMs.toNat + 5000 ≤
      (performAll (sendingOf tx r ++ es ++ stopFallback) s).clock := by
  have hwaits : Config.msgGapMs.toNat + 5000 ≤
      ((sendingOf tx r ++ es ++ stopFallback).map waitOf).sum := by
    simp [sendingOf, stopFallback, waitOf]
  rw [Nat.add_assoc]
  exact le_trans (Nat.add_le_add_left hwaits s.clock) (performAll_waits _ s)

section
variable {tx : List Byte} {fallback : List Event} {r : SendAnswer} {q : RecvAnswer} {es : List Event}
  (h : ControlRun tx fallback r q es)
include h

theorem ControlRun.gap_le_waits : Config.msgGapMs.toNat ≤ (es.map waitOf).sum := by
  cases h <;> exact Nat.le_add_right _ _

theorem ControlRun.clock_le (s : State) :
    s.clock + Config.msgGapMs.toNat ≤ (performAll es s).clock :=
  le_trans (Nat.add_le_add_left h.gap_le_waits _) (performAll_waits es s)

variable (hfallback : ∀ u, SameTransport u (performAll fallback u))
include hfallback

/-- A control exchange uses up the answer to its send and leaves the line and the answers to `T.initBus`. -/
theorem ControlRun.transport (s : State) :
    (performAll es s).line = s.line ∧ (performAll es s).initAnswers = s.initAnswers ∧
      (performAll es s).sendAnswers = s.sendAnswers.tail := by
  cases h with
  | unsent e q =>
    obtain ⟨hline, -, hinit, hsend⟩ := hfallback (performAll (sendingOf tx (.err e)) s)
    exact ⟨hline, hinit, hsend⟩
  | unanswered hq =>
    obtain ⟨hline, -, hinit, hsend⟩ :=
      hfallback (performAll (sendingOf tx .ok ++ [.receive 18 1100 q]) s)
    exact ⟨hline, hinit, hsend⟩
  | answered hrx time => exact ⟨rfl, rfl, rfl⟩

end

/-- STOP while there is a session: its exchange and what follows it happen in Stopping, then the session is
released (41_session.md R111 to R113). -/
theorem exec_stop_controlRun {s : State} {ss : Session} (hf : s.fsm = .active) (hs : s.sess = some ss) :
    ∃ r q es, (∀ a, s.sendAnswers.head? = some a → r = a) ∧ (∀ a, s.rx.head? = some a → q = a) ∧
      ControlRun [0x82, ss.dst, ss.src, 0xA0] stopFallback r q es ∧
      exec .stop s = .next ((performAll es (s.setFsm .stopping)).release.respond okPacket) := by
  obtain ⟨r, q, es, hr, hq, hrun, hes⟩ :=
    reqResp_controlRun ss ctlStop stopFallback (s.setFsm .stopping)
  refine ⟨r, q, es, hr, hq, hrun, ?_⟩
  rw [← hes, ← finishStop_eq]
  exact execStop_active s ss hf hs

/-- IDLE while there is a session: its exchange happens in Active and nothing follows it (41_session.md
R114). -/
theorem exec_idle_controlRun {s : State} {ss : Session} (hf : s.fsm = .active) (hs : s.sess = some ss) :
    ∃ r q es, (∀ a, s.sendAnswers.head? = some a → r = a) ∧ (∀ a, s.rx.head? = some a → q = a) ∧
      ControlRun [0x82, ss.dst, ss.src, 0xA1] [] r q es ∧
      exec .idle s = .next ((performAll es s).respond okPacket) := by
  obtain ⟨r, q, es, hr, hq, hrun, hes⟩ := reqResp_controlRun ss ctlKeepalive [] s
  rw [fallbackOn_nil, performAll_nil] at hes
  refine ⟨r, q, es, hr, hq, hrun, ?_⟩
  rw [← hes]
  exact execIdle_active s ss hf hs

/-! The statements. -/

/-- Settles O19, one check after the other. -/
theorem startRefusesInTheOrderOfItsChecks : Obligations.StartRefusesInTheOrderOfItsChecks := by
  intro s flags bitrate target source
  refine ⟨fun hf => ?_, fun hf hc => ?_, fun hf hfull hcksum hflags => ?_⟩
  · exact execStart_badState flags bitrate target source s (by simp [hf])
  · exact execStart_noCapability flags bitrate target source s hf hc
  · have hinit : initType flags ≠ 0 := by
      rw [ne_eq, initType_eq_zero_iff]
      rintro ⟨h0, h1⟩
      rw [h0, h1] at hflags
      exact hflags.elim nofun nofun
    exact execStart_otherInit flags bitrate target source s hf ⟨hfull, hcksum⟩ hinit

/-- Settles O21: past its checks START is the handshake, with the answer that `T.initBus` gives there. -/
theorem startFollowsTheAnswerOfInitBus : Obligations.StartFollowsTheAnswerOfInitBus := by
  intro s flags bitrate target source hf hfull hcksum h0 h1
  have hexec : exec (.start flags bitrate target source) s = .next (handshake bitrate target source s) :=
    execStart_handshake flags bitrate target source s hf ⟨hfull, hcksum⟩
      ((initType_eq_zero_iff flags).2 ⟨h0, h1⟩)
  obtain ⟨hline, hrx, hinit, hsend⟩ := handshake_transport bitrate target source s
  exact ⟨_, _, hexec, beforeInit_answer bitrate target source s,
    handshake_happened bitrate target source s, hline, hrx, hinit, hsend, exec_samePorts hexec,
    handshake_clock bitrate target source s, handshake_of_keyBytes,
    fun _ _ => handshake_of_otherBytes, fun _ => handshake_of_err⟩

/-- Settles O20: it is O21 with the expected pair as the settled answer. -/
theorem startSucceedsWithTheFixedKeyBytes : Obligations.StartSucceedsWithTheFixedKeyBytes := by
  intro s flags bitrate target source more hf hfull hcksum h0 h1 hanswers
  obtain ⟨t, r, hexec, hsettled, hevents, hline, hrx, hinit, hsend, hports, hclock, hok, -, -⟩ :=
    startFollowsTheAnswerOfInitBus s flags bitrate target source hf hfull hcksum h0 h1
  obtain rfl : r = .ok 0xD3 0xB0 := hsettled _ (by rw [hanswers, List.head?_cons])
  obtain ⟨hactive, hsess, hresp⟩ := hok rfl
  exact ⟨t, hexec, hactive, hsess, hresp, hevents, hline, hrx, by rw [hinit, hanswers, List.tail_cons],
    hsend, hports, hclock⟩

/-- Settles O24: its exchange was never sent, unanswered or answered. -/
theorem stopAlwaysReleasesTheSession : Obligations.StopAlwaysReleasesTheSession := by
  refine ⟨execStop_refused, fun s ss hf hs => ?_⟩
  obtain ⟨r, q, es, hr, hq, hrun, hexec⟩ := exec_stop_controlRun hf hs
  obtain ⟨hline, hinit, hsend⟩ :=
    hrun.transport (fun _ => ⟨rfl, rfl, rfl, rfl⟩) (s.setFsm .stopping)
  have hclock := stopFallback_clock_le [0x82, ss.dst, ss.src, 0xA0] r (s := s.setFsm .stopping)
  have hevents : Happened .stopping es s
      ((performAll es (s.setFsm .stopping)).release.respond okPacket) := performAll_trace es _
  refine ⟨_, r, q, hexec, rfl, rfl, congrArg (· ++ _) (performAll_responses es _), exec_samePorts hexec,
    hline, hinit, hsend, hrun.clock_le (s.setFsm .stopping), hr, hq, ?_⟩
  cases hrun with
  | unsent e q =>
    exact ⟨fun _ h => by cases h; exact ⟨rfl, hclock [], hevents⟩, nofun⟩
  | unanswered hshort =>
    exact ⟨nofun, fun _ => ⟨rfl, fun _ => ⟨hclock [.receive 18 1100 q], hevents⟩,
      fun rx h hlong => absurd (hshort rx h) (Nat.not_lt.2 hlong)⟩⟩
  | answered hlong time =>
    exact ⟨nofun, fun _ => ⟨rfl, fun hshort => absurd (hshort _ rfl) (Nat.not_lt.2 hlong),
      fun _ _ _ => ⟨time, hevents⟩⟩⟩

/-- Settles O25: its exchange was never sent, unanswered or answered. -/
theorem idleProbesAndSwallowsErrors : Obligations.IdleProbesAndSwallowsErrors := by
  refine ⟨execIdle_refused, fun s ss hf hs => ?_⟩
  obtain ⟨r, q, es, hr, hq, hrun, hexec⟩ := exec_idle_controlRun hf hs
  obtain ⟨hline, hinit, hsend⟩ := hrun.transport (fun _ => ⟨rfl, rfl, rfl, rfl⟩) s
  have hevents : Happened .active es s ((performAll es s).respond okPacket) := hf ▸ performAll_trace es s
  refine ⟨_, r, q, hexec, ⟨performAll_fsm es s, performAll_sess es s⟩,
    congrArg (· ++ _) (performAll_responses es s), exec_samePorts hexec, hline, hinit, hsend,
    hrun.clock_le s, hr, hq, ?_⟩
  cases hrun with
  | unsent e q =>
    exact ⟨fun _ h => by cases h; exact ⟨rfl, hevents⟩, nofun⟩
  | unanswered hshort =>
    exact ⟨nofun, fun _ => ⟨rfl, fun _ => hevents,
      fun rx h hlong => absurd (hshort rx h) (Nat.not_lt.2 hlong)⟩⟩
  | answered hlong time =>
    exact ⟨nofun, fun _ => ⟨rfl, fun hshort => absurd (hshort _ rfl) (Nat.not_lt.2 hlong),
      fun _ _ _ => ⟨time, hevents⟩⟩⟩

/-- The table of 41_session.md R115 for START outside a session: refused, failed, or Active with the session
`ss`. -/
def StartOutcome (ss : Session) (s t : State) (p : List Byte) : Prop :=
  (p = [0x03] ∨ p = [0x04]) ∧ SameBlock s t ∧ t.sess = none ∨
  ((∃ e, p = [0x06, e]) ∨ p = [0x05]) ∧ t.fsm = .closed ∧ t.sess = none ∨
  p.head? = some 0x00 ∧ t.fsm = .active ∧ t.sess = some ss

/-- Outside a session START fails a check or goes by the answer of `T.initBus`. -/
theorem start_outcome {s : State} (hs : SessionOk s) (hf : s.fsm ≠ .active) (flags : Byte)
    (bitrate : Word32) (target source : Byte) :
    ∃ t p, exec (.start flags bitrate target source) s = .next t ∧
      t.responses = s.responses ++ [p] ∧ StartOutcome (startedSession bitrate target source) s t p := by
  have hfree := hs.idle_or_closed_of_not_active hf
  have hnone := hs.noSession_of_not_active hf
  by_cases hc : s.capFullInit = true ∧ s.capCksum = true
  · by_cases hi : initType flags = 0
    · obtain ⟨hfull, hcksum⟩ := hc
      obtain ⟨h0, h1⟩ := (initType_eq_zero_iff flags).1 hi
      obtain ⟨t, r, hexec, -, -, -, -, -, -, -, -, hmatch, hother, herr⟩ :=
        startFollowsTheAnswerOfInitBus s flags bitrate target source hfree hfull hcksum h0 h1
      cases r with
      | err e =>
        obtain ⟨hclosed, hreleased, hresp⟩ := herr e rfl
        exact ⟨t, _, hexec, hresp, .inr (.inl ⟨.inl ⟨_, rfl⟩, hclosed, hreleased⟩)⟩
      | ok kb1 kb2 =>
        by_cases hk : kb1 = 0xD3 ∧ kb2 = 0xB0
        · obtain ⟨rfl, rfl⟩ := hk
          obtain ⟨hactive, hsess, hresp⟩ := hmatch rfl
          exact ⟨t, _, hexec, hresp, .inr (.inr ⟨rfl, hactive, hsess⟩)⟩
        · obtain ⟨hclosed, hreleased, hresp⟩ := hother kb1 kb2 rfl hk
          exact ⟨t, _, hexec, hresp, .inr (.inl ⟨.inr rfl, hclosed, hreleased⟩)⟩
    · exact ⟨_, _, execStart_otherInit flags bitrate target source s hfree hc hi, rfl,
        .inl ⟨.inr rfl, ⟨rfl, rfl⟩, hnone⟩⟩
  · exact ⟨_, _, execStart_noCapability flags bitrate target source s hfree hc, rfl,
      .inl ⟨.inl rfl, ⟨rfl, rfl⟩, hnone⟩⟩

/-- Settles O26: outside a session START has its own outcomes and the rest is refused; with one START is
refused, and STOP and IDLE go by O24 and O25. -/
theorem sessionFamilyOutcomes : Obligations.SessionFamilyOutcomes := by
  intro s hs
  by_cases hf : s.fsm = .active
  · obtain ⟨ss, hss⟩ := Option.ne_none_iff_exists'.1 (hs.sess_ne_none hf)
    obtain ⟨t, -, -, hstop, hclosed, hreleased, hstopResp, -⟩ :=
      stopAlwaysReleasesTheSession.2 s ss hf hss
    obtain ⟨u, -, -, hidle, hsame, hidleResp, -⟩ := idleProbesAndSwallowsErrors.2 s ss hf hss
    have hbusy : ¬(s.fsm = .idle ∨ s.fsm = .closed) := by simp [hf]
    exact ⟨fun flags bitrate target source =>
        ⟨_, _, execStart_badState flags bitrate target source s hbusy, rfl,
          fun _ => ⟨rfl, rfl, rfl⟩, fun h => absurd hf h⟩,
      ⟨t, _, hstop, hstopResp, fun _ => ⟨rfl, hclosed, hreleased⟩, fun h => absurd hf h⟩,
      ⟨u, _, hidle, hidleResp, hsame, fun _ => rfl, fun h => absurd hf h⟩⟩
  · have hnone := hs.noSession_of_not_active hf
    refine ⟨fun flags bitrate target source => ?_,
      ⟨_, _, execStop_refused s hf, rfl, fun h => absurd h hf, fun _ => ⟨rfl, ⟨rfl, rfl⟩, hnone⟩⟩,
      ⟨_, _, execIdle_refused s hf, rfl, ⟨rfl, rfl⟩, fun h => absurd h hf, fun _ => ⟨rfl, hnone⟩⟩⟩
    obtain ⟨t, p, hexec, hresp, houtcome⟩ := start_outcome hs hf flags bitrate target source
    exact ⟨t, p, hexec, hresp, fun h => absurd h hf, fun _ => houtcome⟩

/-- Settles O23: the checks treat Idle and Closed alike, and the handshake overwrites FSM. -/
theorem startFromClosedIsStartFromIdle : Obligations.StartFromClosedIsStartFromIdle := by
  intro s flags bitrate target source
  by_cases hc : s.capFullInit = true ∧ s.capCksum = true
  · by_cases hi : initType flags = 0
    · exact ⟨_, _, execStart_handshake flags bitrate target source _ (.inl rfl) hc hi,
        execStart_handshake flags bitrate target source _ (.inr rfl) hc hi,
        .inl ((handshake_setFsm bitrate target source s .closed).trans
          (handshake_setFsm bitrate target source s .idle).symm)⟩
    · exact ⟨_, _, execStart_otherInit flags bitrate target source _ (.inl rfl) hc hi,
        execStart_otherInit flags bitrate target source _ (.inr rfl) hc hi, .inr ⟨rfl, rfl⟩⟩
  · exact ⟨_, _, execStart_noCapability flags bitrate target source _ (.inl rfl) hc,
      execStart_noCapability flags bitrate target source _ (.inr rfl) hc, .inr ⟨rfl, rfl⟩⟩

/-- Settles O39: the two items are what their meanings say. -/
theorem initItemsActOnTheTransportOnly : Obligations.InitItemsActOnTheTransportOnly := by
  intro s a
  exact ⟨rfl, rfl⟩

end Sys2Proof.Machine
end

section
/-! SUPPORT. The family 42_framer.md: the fields of a frame, SEND as the run of its two events, the outcome
of one receive, and the statements. -/

namespace Sys2Proof.Machine

/-! The fields of a frame. -/

/-- Five bytes are room for a header and a last byte (30_encoding.md R60). -/
theorem exists_frame_of_five_le_length {bytes : List Byte} (h : 5 ≤ bytes.length) :
    ∃ len dest src payload ck, bytes = [len, dest, src] ++ payload ++ [ck] := by
  match bytes, h with
  | len :: dest :: src :: first :: rest, _ =>
    exact ⟨len, dest, src, (first :: rest).dropLast, (first :: rest).getLast (List.cons_ne_nil _ _),
      congrArg ([len, dest, src] ++ ·) (List.dropLast_append_getLast _).symm⟩

/-- A frame is decoded to what stands between its first and its last byte (42_framer.md R124). -/
theorem decodeFrame_frame (len dest src ck : Byte) (payload : List Byte) :
    decodeFrame ([len, dest, src] ++ payload ++ [ck]) = (dest, src, payload) := by
  simp [decodeFrame, hdr]

/-- The frame that the statements write out is the one the block encodes (42_framer.md R120). -/
theorem encodeFrame_eq_frameOf (ss : Session) (dest src : Byte) (payload : List Byte) :
    encodeFrame ⟨payload, dest, src⟩ ss = frameOf ss dest src payload := rfl

/-- The first and the last byte have no part in the decoding (42_framer.md R127). -/
theorem decodeFrame_congr {f g : List Byte} (hlong : 5 ≤ f.length) (hlen : f.length = g.length)
    (h : ∀ k, 1 ≤ k → k + 1 < f.length → f[k]? = g[k]?) : decodeFrame f = decodeFrame g := by
  have hdest : f[1]? = g[1]? := h 1 (by omega) (by omega)
  have hsrc : f[2]? = g[2]? := h 2 (by omega) (by omega)
  have hpayload : (f.drop hdr).dropLast = (g.drop hdr).dropLast := by
    refine List.ext_getElem? fun k => ?_
    rw [List.getElem?_dropLast, List.getElem?_dropLast, List.length_drop, List.length_drop, ← hlen,
      List.getElem?_drop, List.getElem?_drop]
    split
    case isTrue hk => exact h (hdr + k) (by unfold hdr; omega) (by omega)
    case isFalse hk => rfl
  simp only [decodeFrame, List.getD_eq_getElem?_getD, hdest, hsrc, hpayload]

/-! A run of events and the response after it. -/

/-- Events of an active session are in the history of the state after the response. -/
theorem happened_respond {s : State} (hf : s.fsm = .active) (es : List Event) (p : List Byte) :
    Happened .active es s ((performAll es s).respond p) := hf ▸ performAll_trace es s

theorem responses_respond_performAll (s : State) (es : List Event) (p : List Byte) :
    ((performAll es s).respond p).responses = s.responses ++ [p] :=
  congrArg (· ++ [p]) (performAll_responses es s)

/-! SEND. -/

/-- The response of SEND to the answer of `T.send` (42_framer.md R123). -/
def sendPacket : SendAnswer → List Byte
  | .ok => okPacket
  | .err e => errorPacket (.transportError e)

/-- SEND of a legal payload is the wait and the `T.send` of its frame, then the response to the answer
(42_framer.md R120 to R123). -/
theorem exec_send_legal {s : State} {ss : Session} (hf : s.fsm = .active) (hs : s.sess = some ss)
    (dest src : Byte) {payload : List Byte} (hl : 1 ≤ payload.length ∧ payload.length ≤ 14) :
    exec (.send dest src payload) s =
      .next ((performAll (sendingOf (frameOf ss dest src payload) (answerToSend s)) s).respond
        (sendPacket (answerToSend s))) := by
  rw [exec, execSend_active s ss dest src payload hf hs, framerSend_legal ss _ s hl,
    encodeFrame_eq_frameOf]
  cases h : answerToSend s with
  | ok => rw [transmit_ok _ s h]; rfl
  | err e => rw [transmit_err _ s e h]; rfl

/-- Sending a frame lasts at least as long as the wait before it (42_framer.md R122). -/
theorem sendingOf_clock_le (tx : List Byte) (r : SendAnswer) (s : State) :
    s.clock + Config.msgGapMs.toNat ≤ (performAll (sendingOf tx r) s).clock := by
  have hgap : Config.msgGapMs.toNat ≤ ((sendingOf tx r).map waitOf).sum := Nat.le_add_right _ _
  exact le_trans (Nat.add_le_add_left hgap s.clock) (performAll_waits _ s)

/-! RECV. -/

/-- The response of a command that returns a message leaves the world outside alone. -/
theorem finishMessage_sameWorld (r : Except CmdError InMessage × State) :
    SameWorld r.2 (finishMessage r) := by
  obtain ⟨_ | _, u⟩ := r
  · exact SameWorld.refl u
  · exact SameWorld.refl u

theorem finishMessage_sameBlock (r : Except CmdError InMessage × State) :
    SameBlock r.2 (finishMessage r) := by
  obtain ⟨_ | _, u⟩ := r
  · exact ⟨rfl, rfl⟩
  · exact ⟨rfl, rfl⟩

theorem framerReceive_sameBlock (tmo : Nat) (s : State) : SameBlock s (framerReceive tmo s).2 := by
  obtain ⟨es, -, h⟩ := framerReceive_run tmo s
  rw [h]
  exact ⟨performAll_fsm es s, performAll_sess es s⟩

theorem framerReceive_clock_le (tmo : Nat) (s : State) : s.clock ≤ (framerReceive tmo s).2.clock := by
  obtain ⟨es, -, h⟩ := framerReceive_run tmo s
  rw [h]
  exact performAll_clock_le es s

/-- One receive takes what waits first and leaves the rest of the transport alone (42_framer.md R125). -/
theorem framerReceive_transport (tmo : Nat) (s : State) :
    (framerReceive tmo s).2.line = s.line ∧ (framerReceive tmo s).2.rx = s.rx.tail ∧
      (framerReceive tmo s).2.initAnswers = s.initAnswers ∧
      (framerReceive tmo s).2.sendAnswers = s.sendAnswers := by
  obtain ⟨e, -, h⟩ | ⟨rx, -, -, h⟩ | ⟨rx, -, -, h⟩ := framerReceive_cases tmo s
  · rw [h]; exact ⟨rfl, rfl, rfl, rfl⟩
  · rw [h]; exact ⟨rfl, rfl, rfl, rfl⟩
  · rw [h]; exact ⟨rfl, rfl, rfl, rfl⟩

/-- The one receive of a command in an active session, after the events `before`: RECV has none, REQRESP
those of its send (42_framer.md R125 to R128, 43_reqresp.md R140). -/
theorem receiveOutcome_framerReceive (before : List Event) (tmo : Nat) {s : State}
    (hf : s.fsm = .active) :
    ReceiveOutcome before (tmo + 100) (performAll before s).recvAnswer s
      (finishMessage (framerReceive tmo (performAll before s))) := by
  obtain ⟨e, hq, h⟩ | ⟨rx, hq, hshort, h⟩ | ⟨rx, hq, hlong, h⟩ :=
    framerReceive_cases tmo (performAll before s)
  · rw [h, hq, ← performAll_append]
    exact ⟨happened_respond hf _ _, responses_respond_performAll s _ _⟩
  · rw [h, hq, ← performAll_append]
    exact ⟨fun _ => ⟨happened_respond hf _ _, responses_respond_performAll s _ _⟩,
      fun hlong => absurd hshort (Nat.not_lt.2 hlong)⟩
  · have hclock : (receivedMessage tmo rx (performAll before s)).time = BitVec.ofNat 32
        (finishMessage (framerReceive tmo (performAll before s))).clock := by rw [h]; rfl
    obtain ⟨len, dest, src, payload, ck, hbytes⟩ := exists_frame_of_five_le_length hlong
    have hmessage : receivedMessage tmo rx (performAll before s) =
        ⟨dest, src, payload, (receivedMessage tmo rx (performAll before s)).time⟩ := by
      simp only [receivedMessage, hbytes, decodeFrame_frame]
    rw [hq]
    refine ⟨fun hshort => absurd hshort (Nat.not_lt.2 hlong),
      fun _ => ⟨len, dest, src, payload, ck, hbytes, ?_⟩⟩
    rw [← hclock, h, ← performAll_append, hmessage]
    exact ⟨happened_respond hf _ _, responses_respond_performAll s _ _⟩

/-- A received message depends on what is decoded from the bytes and on the time at which they came. -/
theorem receivedMessage_eq {f g : RxImage} (h : decodeFrame f.bytes = decodeFrame g.bytes) (tmo : Nat)
    (s : State) (rx rx' : List RecvAnswer) :
    receivedMessage tmo f { s with rx := rx } = receivedMessage tmo g { s with rx := rx' } := by
  simp only [receivedMessage, h]
  rfl

/-- Two frames that decode alike give a receive the same end but for the history. -/
theorem finishMessage_framerReceive_congr (tmo : Nat) (s : State) {f g : RxImage}
    (more : List RecvAnswer) (hlen : f.bytes.length = g.bytes.length)
    (hdecode : 5 ≤ f.bytes.length → decodeFrame f.bytes = decodeFrame g.bytes) :
    finishMessage (framerReceive tmo { s with rx := .ok g :: more }) =
      { finishMessage (framerReceive tmo { s with rx := .ok f :: more }) with
        trace := (finishMessage (framerReceive tmo { s with rx := .ok g :: more })).trace } := by
  by_cases hshort : f.bytes.length < 5
  · rw [framerReceive_short tmo { s with rx := .ok f :: more } f rfl hshort,
      framerReceive_short tmo { s with rx := .ok g :: more } g rfl (hlen ▸ hshort)]
    rfl
  · have hlong : 5 ≤ f.bytes.length := Nat.not_lt.1 hshort
    rw [framerReceive_frame tmo { s with rx := .ok f :: more } f rfl hlong,
      framerReceive_frame tmo { s with rx := .ok g :: more } g rfl (hlen ▸ hlong),
      receivedMessage_eq (hdecode hlong) tmo s (.ok f :: more) (.ok g :: more)]
    rfl

/-! The statements. -/

/-- Settles O28: SEND is the run of its two events, with the answer that `T.send` gives there. -/
theorem sendTransmitsItsFrame : Obligations.SendTransmitsItsFrame := by
  intro s ss dest src payload hf hs h1 h14
  have hexec := exec_send_legal hf hs dest src ⟨h1, h14⟩
  have hresponse := responses_respond_performAll s
    (sendingOf (frameOf ss dest src payload) (answerToSend s)) (sendPacket (answerToSend s))
  refine ⟨_, answerToSend s, hexec, answerToSend_of_head s, happened_respond hf _ _, fun h => ?_,
    fun e h => ?_, ⟨rfl, rfl⟩, exec_samePorts hexec, rfl, rfl, rfl, rfl,
    sendingOf_clock_le _ _ s⟩
  · rw [hresponse, h]
    rfl
  · rw [hresponse, h]
    rfl

/-- Settles O29: RECV is one receive after no events. -/
theorem recvReturnsOneRead : Obligations.RecvReturnsOneRead := by
  refine ⟨execRecv_refused, fun s timeout hf => ?_⟩
  have hexec : exec (.recv timeout) s = .next (finishMessage (framerReceive timeout.toNat s)) :=
    execRecv_active s timeout hf
  obtain ⟨hline, hrx, hinit, hsend⟩ := framerReceive_transport timeout.toNat s
  obtain ⟨hline', hrx', hinit', hsend', hclock', -⟩ :=
    finishMessage_sameWorld (framerReceive timeout.toNat s)
  obtain ⟨hfsm, hsess⟩ := framerReceive_sameBlock timeout.toNat s
  obtain ⟨hfsm', hsess'⟩ := finishMessage_sameBlock (framerReceive timeout.toNat s)
  exact ⟨_, s.recvAnswer, hexec, s.recvAnswer_of_head,
    receiveOutcome_framerReceive [] timeout.toNat hf, ⟨hfsm'.trans hfsm, hsess'.trans hsess⟩,
    exec_samePorts hexec, hline'.trans hline, hrx'.trans hrx, hinit'.trans hinit, hsend'.trans hsend,
    hclock' ▸ framerReceive_clock_le timeout.toNat s⟩

/-- Settles O31: the first and the last byte have no part in the decoding, and the message is all that a
frame gives the end state. -/
theorem recvIgnoresLengthAndChecksumBytes : Obligations.RecvIgnoresLengthAndChecksumBytes := by
  intro s timeout f g more hf hlen h
  exact ⟨_, _, execRecv_active _ timeout hf, execRecv_active _ timeout hf,
    finishMessage_framerReceive_congr timeout.toNat s more hlen
      fun hlong => decodeFrame_congr hlong hlen h⟩

/-- Settles O18: the last byte of the frame is dropped, whatever it is. -/
theorem decodeFrameUndoesEncodeFrame : Obligations.DecodeFrameUndoesEncodeFrame := by
  intro p dest src ss ck _ _
  exact decodeFrame_frame _ _ _ ck p

/-- Settles O27: the length check fails before anything has happened, in SEND and in REQRESP. -/
theorem illegalPayloadLengthIsBadLength : Obligations.IllegalPayloadLengthIsBadLength := by
  intro s ss dest src payload timeout hf hs hl
  constructor
  · rw [exec, execSend_active s ss dest src payload hf hs, framerSend_badLength ss _ s hl]
    rfl
  · rw [exec, execReqresp_active s ss dest src payload timeout hf hs,
      reqResp_badLength ss _ timeout.toNat s hl]
    rfl

/-- Settles O32: it is O28 with the answer ok, then O29 with the frame that was sent as the one read. -/
theorem loopbackGivesThePayloadBack : Obligations.LoopbackGivesThePayloadBack := by
  intro s ss dest src ck payload timeout echo more hf hs h1 h14 hanswers hecho
  obtain ⟨t, r, hsend, hsettled, -, hok, -, ⟨hfsm, -⟩, -⟩ :=
    sendTransmitsItsFrame s ss dest src payload hf hs h1 h14
  have hsent : t.responses = s.responses ++ [[0x00]] :=
    hok (hsettled .ok (by rw [hanswers, List.head?_cons]))
  obtain ⟨u, q, hrecv, hread, houtcome, -⟩ :=
    recvReturnsOneRead.2 { t with rx := [.ok echo] } timeout (hfsm.trans hf)
  obtain rfl : q = .ok echo := hread _ rfl
  obtain ⟨-, hframe⟩ := houtcome
  have hlong : 5 ≤ echo.bytes.length := by
    simp only [hecho, frameOf, List.length_append, List.length_cons, List.length_nil]
    omega
  obtain ⟨len, dest', src', payload', ck', hbytes, -, hreceived⟩ := hframe hlong
  have hfields : (dest', src', payload') =
      (if dest = 0 then ss.dst else dest, if src = 0 then ss.src else src, payload) := by
    rw [← decodeFrame_frame len dest' src' ck' payload', ← hbytes, hecho, frameOf, decodeFrame_frame]
  obtain ⟨rfl, rfl, rfl⟩ := hfields
  exact ⟨t, u, hsend, hrecv, by rw [hreceived, hsent, List.append_assoc]; rfl⟩

end Sys2Proof.Machine
end

section
/-! SUPPORT. The family 43_reqresp.md: REQRESP for each answer of its send, what a receive and its response
leave alone, and the statement. -/

namespace Sys2Proof.Machine

section
variable {s : State} {ss : Session} (hf : s.fsm = .active) (hs : s.sess = some ss)
  (timeout : Timeout) (dest src : Byte) {payload : List Byte}
  (hl : 1 ≤ payload.length ∧ payload.length ≤ 14)
include hf hs hl

/-- A failed send ends REQRESP with its error, and nothing is received (43_reqresp.md R140). -/
theorem exec_reqresp_sendErr {e : TErr} (h : answerToSend s = .err e) :
    exec (.reqresp timeout dest src payload) s =
      .next ((performAll (sendingOf (frameOf ss dest src payload) (.err e)) s).raise
        (.transportError e)) := by
  rw [exec, execReqresp_active s ss dest src payload timeout hf hs, reqResp_sendErr ss _ _ s e hl h,
    encodeFrame_eq_frameOf]
  rfl

/-- After a send that succeeded, REQRESP is one receive and its outcome (43_reqresp.md R140). -/
theorem exec_reqresp_sent (h : answerToSend s = .ok) :
    exec (.reqresp timeout dest src payload) s =
      .next (finishMessage (framerReceive timeout.toNat
        (performAll (sendingOf (frameOf ss dest src payload) .ok) s))) := by
  rw [exec, execReqresp_active s ss dest src payload timeout hf hs, reqResp_sent ss _ _ s hl h,
    afterSend, encodeFrame_eq_frameOf]
  rfl

end

/-- What one receive and the response to it leave alone: the block, the line and the settled answers to the
other transactions (42_framer.md R125). -/
theorem finishMessage_framerReceive_frame (tmo : Nat) {s t : State}
    (h : t = finishMessage (framerReceive tmo s)) :
    SameBlock s t ∧ t.line = s.line ∧ t.rx = s.rx.tail ∧ t.initAnswers = s.initAnswers ∧
      t.sendAnswers = s.sendAnswers ∧ s.clock ≤ t.clock := by
  subst h
  obtain ⟨hline, hrx, hinit, hsend⟩ := framerReceive_transport tmo s
  obtain ⟨hline', hrx', hinit', hsend', hclock', -⟩ := finishMessage_sameWorld (framerReceive tmo s)
  obtain ⟨hfsm, hsess⟩ := framerReceive_sameBlock tmo s
  obtain ⟨hfsm', hsess'⟩ := finishMessage_sameBlock (framerReceive tmo s)
  exact ⟨⟨hfsm'.trans hfsm, hsess'.trans hsess⟩, hline'.trans hline, hrx'.trans hrx,
    hinit'.trans hinit, hsend'.trans hsend, hclock' ▸ framerReceive_clock_le tmo s⟩

/-- Settles O30, by the answer of `T.send`: an error is the end of the command, and after ok it is the one
receive of O29, begun in the state that the send leaves. -/
theorem reqrespPairsOneSendWithOneReceive : Obligations.ReqrespPairsOneSendWithOneReceive := by
  intro s ss timeout dest src payload hf hs h1 h14
  have hr := answerToSend_of_head s
  cases hsend : answerToSend s with
  | err e =>
    have hexec := exec_reqresp_sendErr hf hs timeout dest src ⟨h1, h14⟩ hsend
    rw [hsend] at hr
    refine ⟨_, .err e, s.recvAnswer, hexec, hr, s.recvAnswer_of_head, fun _ he => ?_, nofun,
      ⟨rfl, rfl⟩, exec_samePorts hexec, rfl, rfl, rfl, sendingOf_clock_le _ _ s⟩
    cases he
    exact ⟨happened_respond hf _ _, rfl, responses_respond_performAll s _ _⟩
  | ok =>
    have hexec := exec_reqresp_sent hf hs timeout dest src ⟨h1, h14⟩ hsend
    obtain ⟨hblock, hline, hrx, hinit, hanswers, hclock⟩ :=
      finishMessage_framerReceive_frame timeout.toNat
        (s := performAll (sendingOf (frameOf ss dest src payload) .ok) s) rfl
    have hq := (performAll (sendingOf (frameOf ss dest src payload) .ok) s).recvAnswer_of_head
    rw [hsend] at hr
    exact ⟨_, .ok, _, hexec, hr, hq, nofun,
      fun _ => ⟨hrx, receiveOutcome_framerReceive _ timeout.toNat hf⟩, hblock, exec_samePorts hexec,
      hline, hinit, hanswers, le_trans (sendingOf_clock_le _ _ s) hclock⟩

end Sys2Proof.Machine
end

section
/-! SUPPORT. The family 60_exceptions.md: the refusal of an illegal command, the table of what an error leaves
behind with the one way in which a command ends by it, and the statements. -/

namespace Sys2Proof.Machine

/-! Illegal commands (60_exceptions.md R156). -/

theorem exec_illegal {i : Instr} {s : State} (h : legalIn i s.fsm = false) :
    exec i s = .next (s.raise .badState) := by
  cases i with
  | start flags bitrate target source =>
    exact execStart_badState flags bitrate target source s (by simpa [legalIn] using h)
  | stop => exact execStop_refused s (of_decide_eq_false h)
  | idle => exact execIdle_refused s (of_decide_eq_false h)
  | send dest src payload => exact execSend_refused s dest src payload (of_decide_eq_false h)
  | recv timeout => exact execRecv_refused s timeout (of_decide_eq_false h)
  | reqresp timeout dest src payload =>
    exact execReqresp_refused s dest src payload timeout (of_decide_eq_false h)
  | parity _ _ | frame _ _ _ _ _ | frameStopsession _ _ _ | frameKeepalive _ _ _ | initAddress _
  | initKeybytes => cases h

/-! How a command ends (60_exceptions.md R154). -/

/-- When a command can raise an error and what the error leaves behind: the table of 60_exceptions.md R154, with
R156 for BadState. OutOfMemory and BadCommand are no command's. -/
def ErrorLeaves (i : Instr) (s t : State) : CmdError → Prop
  | .badLength => isStart i = false ∧ s.fsm = .active ∧ SameBlock s t
  | .transportError _ =>
    (isStart i = true ∧ t.fsm = .closed ∧ t.sess = none) ∨
      (isStart i = false ∧ s.fsm = .active ∧ SameBlock s t)
  | .wrongKeyBytes => isStart i = true ∧ t.fsm = .closed ∧ t.sess = none
  | .protocolNotSupported => isStart i = true ∧ (s.fsm = .idle ∨ s.fsm = .closed) ∧ SameBlock s t
  | .initNotSupported => isStart i = true ∧ (s.fsm = .idle ∨ s.fsm = .closed) ∧ SameBlock s t
  | .badState => legalIn i s.fsm = false ∧ SameBlock s t
  | .outOfMemory => False
  | .badCommand => False

/-- The response `p` has status OK, or it is an error's that leaves `t` as the table says. -/
def ByTable (i : Instr) (s t : State) (p : List Byte) : Prop :=
  p.head? = some 0x00 ∨ ∃ k, p = errorPacket k ∧ ErrorLeaves i s t k

/-- The command answers once, by the table. -/
def EndsByTable (i : Instr) (s t : State) : Prop :=
  ∃ p, t.responses = s.responses ++ [p] ∧ ByTable i s t p

theorem EndsByTable.byTable {i : Instr} {s t : State} (h : EndsByTable i s t) {p : List Byte}
    (hp : t.responses = s.responses ++ [p]) : ByTable i s t p := by
  obtain ⟨q, hq, htable⟩ := h
  obtain rfl : q = p := List.singleton_inj.1 (List.append_cancel_left (hq.symm.trans hp))
  exact htable

theorem EndsByTable.of_respond {i : Instr} {s u : State} (h : u.responses = s.responses) {p : List Byte}
    (hp : p.head? = some 0x00) : EndsByTable i s (u.respond p) :=
  ⟨p, by rw [State.respond_responses, h], .inl hp⟩

theorem EndsByTable.of_raise {i : Instr} {s u : State} (h : u.responses = s.responses) {k : CmdError}
    (hk : ErrorLeaves i s (u.raise k) k) : EndsByTable i s (u.raise k) :=
  ⟨_, by rw [State.raise_responses, h], .inr ⟨k, rfl, hk⟩⟩

/-! The commands of a session, while FSM is Active. -/

theorem LegalRun.responses_eq {s u : State} (h : LegalRun s u) : u.responses = s.responses := by
  obtain ⟨es, -, rfl⟩ := h
  exact performAll_responses es s

theorem exists_session_of_goes_on {i : Instr} {s t : State} (h : exec i s = .next t)
    (hi : readsSession i = true) (hf : s.fsm = .active) : ∃ ss, s.sess = some ss := by
  cases hs : s.sess with
  | none => cases (exec_fault_of_absent hi hf hs).symm.trans h
  | some ss => exact ⟨ss, rfl⟩

section
variable {i : Instr} {s : State} (hi : isStart i = false) (hf : s.fsm = .active)
include hi hf

/-- An error of an exchange leaves FSM and the session as they were. -/
theorem raise_endsByTable {u : State} (hrun : LegalRun s u) {k : CmdError} (hk : ExchangeError k) :
    EndsByTable i s (u.raise k) := by
  have hblock : SameBlock s (u.raise k) := ⟨hrun.fsm_eq, hrun.sess_eq⟩
  refine .of_raise hrun.responses_eq ?_
  cases k with
  | badLength => exact ⟨hi, hf, hblock⟩
  | transportError e => exact .inr ⟨hi, hf, hblock⟩
  | outOfMemory | protocolNotSupported | initNotSupported | wrongKeyBytes | badState | badCommand =>
    cases hk

theorem finishSend_endsByTable {r : Except CmdError Unit × State} (hrun : LegalRun s r.2)
    (h : ∀ k, r.1 = .error k → ExchangeError k) : EndsByTable i s (finishSend r) := by
  obtain ⟨k | _, u⟩ := r
  · exact raise_endsByTable hi hf hrun (h k rfl)
  · exact .of_respond hrun.responses_eq rfl

theorem finishMessage_endsByTable {r : Except CmdError InMessage × State} (hrun : LegalRun s r.2)
    (h : MessageResult r.1) : EndsByTable i s (finishMessage r) := by
  obtain ⟨k | m, u⟩ := r
  · exact raise_endsByTable hi hf hrun h
  · exact .of_respond hrun.responses_eq rfl

end

/-- STOP swallows the error of its exchange (41_session.md R112). -/
theorem finishStop_endsByTable {s : State} {r : Except CmdError InMessage × State}
    (h : r.2.responses = s.responses) : EndsByTable .stop s (finishStop r) := by
  rw [finishStop_eq]
  refine .of_respond ?_ rfl
  rw [State.release_responses, performAll_responses, h]

/-! START past its state check. -/

/-- A handshake that fails closes the block (41_session.md R110). -/
theorem handshake_endsByTable (flags : Byte) (bitrate : Word32) (target source : Byte) (s : State) :
    EndsByTable (.start flags bitrate target source) s (handshake bitrate target source s) := by
  cases hr : (beforeInit bitrate target source s).initAnswer with
  | err e =>
    obtain ⟨hfsm, hsess, hresp⟩ := handshake_of_err hr
    exact ⟨_, hresp, .inr ⟨.transportError e, rfl, .inl ⟨rfl, hfsm, hsess⟩⟩⟩
  | ok kb1 kb2 =>
    by_cases hk : kb1 = 0xD3 ∧ kb2 = 0xB0
    · obtain ⟨rfl, rfl⟩ := hk
      obtain ⟨-, -, hresp⟩ := handshake_of_keyBytes hr
      exact ⟨_, hresp, .inl rfl⟩
    · obtain ⟨hfsm, hsess, hresp⟩ := handshake_of_otherBytes hr hk
      exact ⟨_, hresp, .inr ⟨.wrongKeyBytes, rfl, rfl, hfsm, hsess⟩⟩

theorem execStart_endsByTable (flags : Byte) (bitrate : Word32) (target source : Byte) {s t : State}
    (hf : s.fsm = .idle ∨ s.fsm = .closed) (h : execStart flags bitrate target source s = .next t) :
    EndsByTable (.start flags bitrate target source) s t := by
  by_cases hc : s.capFullInit = true ∧ s.capCksum = true
  · by_cases hi : initType flags = 0
    · cases (execStart_handshake flags bitrate target source s hf hc hi).symm.trans h
      exact handshake_endsByTable flags bitrate target source s
    · cases (execStart_otherInit flags bitrate target source s hf hc hi).symm.trans h
      exact .of_raise rfl ⟨rfl, hf, rfl, rfl⟩
  · cases (execStart_noCapability flags bitrate target source s hf hc).symm.trans h
    exact .of_raise rfl ⟨rfl, hf, rfl, rfl⟩

/-! Every command. -/

theorem exec_legal_endsByTable {i : Instr} {s t : State} (hi : isCommand i = true)
    (hlegal : legalIn i s.fsm = true) (h : exec i s = .next t) : EndsByTable i s t := by
  cases i with
  | parity value mode => cases h; exact .of_respond rfl rfl
  | start flags bitrate target source =>
    exact execStart_endsByTable flags bitrate target source (by simpa [legalIn] using hlegal) h
  | stop =>
    have hf : s.fsm = .active := of_decide_eq_true hlegal
    obtain ⟨ss, hs⟩ := exists_session_of_goes_on h rfl hf
    cases (execStop_active s ss hf hs).symm.trans h
    exact finishStop_endsByTable (reqResp_responses ss _ _ (s.setFsm .stopping))
  | idle =>
    have hf : s.fsm = .active := of_decide_eq_true hlegal
    obtain ⟨ss, hs⟩ := exists_session_of_goes_on h rfl hf
    cases (execIdle_active s ss hf hs).symm.trans h
    exact .of_respond (reqResp_responses ss _ _ s) rfl
  | send dest src payload =>
    have hf : s.fsm = .active := of_decide_eq_true hlegal
    obtain ⟨ss, hs⟩ := exists_session_of_goes_on h rfl hf
    cases (execSend_active s ss dest src payload hf hs).symm.trans h
    exact finishSend_endsByTable rfl hf (legalRun_framerSend (.inl hf) ss _) fun _ => framerSend_error
  | recv timeout =>
    have hf : s.fsm = .active := of_decide_eq_true hlegal
    cases (execRecv_active s timeout hf).symm.trans h
    exact finishMessage_endsByTable rfl hf (legalRun_framerReceive (.inl hf) (timeout_le timeout)
      fun hstop => by simp [hf] at hstop) (framerReceive_result _ s)
  | reqresp timeout dest src payload =>
    have hf : s.fsm = .active := of_decide_eq_true hlegal
    obtain ⟨ss, hs⟩ := exists_session_of_goes_on h rfl hf
    cases (execReqresp_active s ss dest src payload timeout hf hs).symm.trans h
    exact finishMessage_endsByTable rfl hf (legalRun_reqResp_active hf ss _ (timeout_le timeout))
      (reqResp_result ss _ _ s)
  | frame _ _ _ _ _ | frameStopsession _ _ _ | frameKeepalive _ _ _ | initAddress _ | initKeybytes =>
    cases hi

/-- Every command that goes on ends by the table. -/
theorem exec_endsByTable {i : Instr} {s t : State} (hi : isCommand i = true) (h : exec i s = .next t) :
    EndsByTable i s t := by
  cases hlegal : legalIn i s.fsm with
  | true => exact exec_legal_endsByTable hi hlegal h
  | false =>
    cases (exec_illegal hlegal).symm.trans h
    exact .of_raise rfl ⟨hlegal, rfl, rfl⟩

theorem eq_badState_of_statusCode {k : CmdError} (h : statusCode k = 0x0E) : k = .badState := by
  cases k with
  | badState => rfl
  | badLength | outOfMemory | protocolNotSupported | initNotSupported | wrongKeyBytes
  | transportError _ | badCommand => simp [statusCode] at h

/-! The statements. -/

/-- Settles O34: of the errors of the table only BadState has the code 0x0E, and it needs an illegal command. -/
theorem legalCommandNeverGetsBadState : Obligations.LegalCommandNeverGetsBadState := by
  intro i s t hlegal hi h hresp
  obtain hok | ⟨k, hp, hk⟩ := (exec_endsByTable hi h).byTable hresp
  · simp at hok
  · obtain ⟨hcode, -⟩ := List.cons.inj hp
    obtain rfl := eq_badState_of_statusCode hcode.symm
    obtain ⟨hillegal, -⟩ := hk
    exact Bool.false_ne_true (hillegal.symm.trans hlegal)

/-- Settles O35, error by error, from the table. -/
theorem errorsChangeOnlyWhatTheTableSays : Obligations.ErrorsChangeOnlyWhatTheTableSays := by
  intro i s t p hi h hresp
  obtain hok | ⟨k, rfl, hk⟩ := (exec_endsByTable hi h).byTable hresp
  · simp [hok]
  · have hhead : (errorPacket k).head? = some (statusCode k) := rfl
    rw [hhead]
    cases k with
    | badLength =>
      obtain ⟨-, hf, hblock⟩ := hk
      simp [statusCode, hf, hblock]
    | transportError e =>
      obtain ⟨hstart, hfsm, hsess⟩ | ⟨hstart, hf, hblock⟩ := hk
      · simp [statusCode, hstart, hfsm, hsess]
      · simp [statusCode, hstart, hf, hblock]
    | wrongKeyBytes =>
      obtain ⟨hstart, hfsm, hsess⟩ := hk
      simp [statusCode, hstart, hfsm, hsess]
    | protocolNotSupported | initNotSupported =>
      obtain ⟨hstart, hf, hblock⟩ := hk
      simp [statusCode, hstart, hf, hblock]
    | badState =>
      obtain ⟨-, hblock⟩ := hk
      simp [statusCode, hblock]
    | outOfMemory | badCommand => cases hk

/-- Settles O33: it is the refusal, which adds the one byte of BadState. -/
theorem illegalCommandGetsBadState : Obligations.IllegalCommandGetsBadState :=
  fun _ _ h => exec_illegal h

/-- Settles O37: the frame has at most 18 bytes, so one read holds it whole. -/
theorem frameOnTheLineWaits : Obligations.FrameOnTheLineWaits := by
  intro s len da sa ck payload _ h14
  refine ⟨_, rxImageOf_bytes _ ?_, rfl⟩
  simp only [List.length_append, List.length_cons, List.length_nil]
  omega

end Sys2Proof.Machine
end

section
/-! SUPPORT. The family 70_reset_and_hazards.md: what a command cut short by reset leaves, how long the commands
last at least, and the statements. -/

namespace Sys2Proof.Machine

/-! A command cut short by reset (70_reset_and_hazards.md R181). -/

/-- The command port carries commands only (30_encoding.md R70). -/
theorem isCommand_of_decodePacket {bytes : List Byte} {i : Instr} (h : decodePacket bytes = .ok i) :
    isCommand i = true := by
  obtain ⟨_, _, _, -, -, rfl⟩ | ⟨_, _, _, _, _, _, _, -, rfl⟩ | ⟨-, rfl⟩ | ⟨-, rfl⟩ |
    ⟨_, _, _, _, -, -, rfl⟩ | ⟨_, _, -, rfl⟩ | ⟨_, _, _, _, _, _, -, -, rfl⟩ := decodePacket_ok h
  all_goals rfl

theorem step_resetDuring {s : State} {bytes : List Byte} {k : Nat} {rest : List PortInput}
    (hin : s.inbox = .resetDuring bytes k :: rest) : step s = abandon bytes k (s.fetched rest) :=
  step_cons hin

theorem abandon_undefined {bytes : List Byte} {why : DecodeError}
    (hd : decodePacket bytes = .undefined why) (k : Nat) (s : State) :
    abandon bytes k s = .next s.resetBlock := by
  simp only [abandon, hd]

/-- A replay that the history records as it happened leaves the transport and the clock of its events. -/
theorem leftBy_replay {entries : List TraceEntry} {s : State}
    (htrace : (s.replay entries).trace = s.trace ++ entries) :
    LeftBy entries s.clock s (s.replay entries) := by
  obtain ⟨hline, hrx, hinit, hsend⟩ := State.replay_transport entries s
  refine ⟨hline, hrx, hinit, hsend, ?_⟩
  cases entries with
  | nil => rfl
  | cons entry more =>
    rw [← State.replay_clock (entry :: more) s s.clock (List.cons_ne_nil _ _), htrace]
    rw [List.map_append, List.getLastD_eq_getLast?, List.getLastD_eq_getLast?, List.map_cons,
      List.getLast?_append_cons]

theorem Records.abandonedAt_leftBy {es : List Event} {s full : State} (h : Records es s full) (k : Nat) :
    LeftBy ((abandonedAt k s full).trace.drop s.trace.length) s.clock s (abandonedAt k s full) := by
  obtain ⟨hprefix, -⟩ := grows_abandonedAt k s full
  have hentries : (abandonedAt k s full).trace.drop s.trace.length =
      (full.trace.drop s.trace.length).take k := by
    rw [h.abandonedAt_trace k, List.drop_take, Nat.add_sub_cancel_left]
  have htrace := (List.prefix_iff_eq_append.1 hprefix).symm
  rw [hentries] at htrace ⊢
  exact leftBy_replay htrace

/-- When every event has happened before the reset, the world is as the whole command leaves it. -/
theorem EndsRun.sameWorld_abandonedAt {s full : State} {f : Fsm} {es : List Event}
    (h : EndsRun s full f es) {k : Nat} (hk : full.trace.length ≤ s.trace.length + k) :
    SameWorld full (abandonedAt k s full) := by
  obtain ⟨x, -, hfull⟩ := h
  obtain ⟨new, hnew, -⟩ := performAll_trace es { s with fsm := f, sess := x }
  have htrace : full.trace = s.trace ++ new := by rw [hfull]; exact hnew
  have hlength : new.length ≤ k := by
    rw [htrace, List.length_append] at hk
    exact Nat.le_of_add_le_add_left hk
  have hworld := (performAll_replay es { s with fsm := f, sess := x } s (SameWorld.refl s) new hnew k).2
    hlength
  rw [abandonedAt, htrace, List.drop_left, hfull]
  exact hworld

/-- Reset takes the block to Idle and leaves the ports, the capability inputs and the responses as they were
before the command (70_reset_and_hazards.md R180). -/
theorem abandonedAt_frame (k : Nat) (s full : State) :
    (abandonedAt k s full).fsm = .idle ∧ (abandonedAt k s full).sess = none ∧
    (abandonedAt k s full).responses = s.responses ∧ SamePorts s (abandonedAt k s full) := by
  obtain ⟨-, -, hfull, hcksum, hinbox, hresponses⟩ :=
    State.replay_frame ((full.trace.drop s.trace.length).take k) s
  exact ⟨rfl, rfl, hresponses, hfull, hcksum, hinbox⟩

/-! How long commands last at least (70_reset_and_hazards.md R196). -/

/-- START waits for the line to settle before it makes its `T.initBus` (41_session.md R106). -/
theorem exec_start_clock {flags : Byte} {bitrate : Word32} {target source : Byte} {s t : State}
    (h : exec (.start flags bitrate target source) s = .next t) {mode : InitMode} {a : Byte}
    {r : InitAnswer} (hinit : Event.initBus mode a r ∈ newEvents s t) : s.clock + 300 ≤ t.clock := by
  obtain ⟨k, hrefused⟩ | ⟨-, hdone⟩ := execStart_cases flags bitrate target source s
  · cases hrefused.symm.trans h
    simp [newEvents] at hinit
  · cases hdone.symm.trans h
    exact handshake_clock bitrate target source s

/-- REQRESP lasts at least as long as its send (43_reqresp.md R140). -/
theorem exec_reqresp_clock {s t : State} {ss : Session} (hf : s.fsm = .active) (hs : s.sess = some ss)
    {timeout : Timeout} {dest src : Byte} {payload : List Byte}
    (hl : 1 ≤ payload.length ∧ payload.length ≤ 14)
    (h : exec (.reqresp timeout dest src payload) s = .next t) :
    s.clock + Config.msgGapMs.toNat ≤ t.clock := by
  cases hsend : answerToSend s with
  | err e =>
    cases (exec_reqresp_sendErr hf hs timeout dest src hl hsend).symm.trans h
    exact sendingOf_clock_le _ _ s
  | ok =>
    cases (exec_reqresp_sent hf hs timeout dest src hl hsend).symm.trans h
    obtain ⟨-, -, -, -, -, hreceive⟩ := finishMessage_framerReceive_frame timeout.toNat rfl
    exact le_trans (sendingOf_clock_le _ _ s) hreceive

/-- A STOP that warns has also made its fallback wait (41_session.md R112). -/
theorem ControlRun.fallback_clock_le {tx : List Byte} {r : SendAnswer} {q : RecvAnswer}
    {es : List Event} (h : ControlRun tx stopFallback r q es)
    (hwarn : Event.warn .stopNotAcknowledged ∈ es) (s : State) :
    s.clock + Config.msgGapMs.toNat + 5000 ≤ (performAll es s).clock := by
  cases h with
  | unsent e q => exact stopFallback_clock_le tx (.err e) [] s
  | unanswered _ => exact stopFallback_clock_le tx .ok [.receive 18 1100 q] s
  | answered _ time => simp [sendingOf] at hwarn

/-! The statements. -/

/-- Settles O42: a command is a run of events, and replaying its first events does to the transport and the
clock what the command did with them. -/
theorem resetDuringACommandAbandonsIt : Obligations.ResetDuringACommandAbandonsIt := by
  constructor
  · intro s bytes k rest i full hin hd hfull
    obtain ⟨f, es, hrun⟩ := exec_run i _ full (isCommand_of_decodePacket hd) hfull
    obtain ⟨hidle, hsess, hresponses, hcapFull, hcapCksum, hinbox⟩ :=
      abandonedAt_frame k (s.fetched rest) full
    refine ⟨_, (step_resetDuring hin).trans (abandon_next hd hfull k), hidle, hsess, hresponses, hinbox,
      hcapFull, hcapCksum, hrun.records.abandonedAt_trace k, hrun.records.abandonedAt_leftBy k,
      fun hk => ?_⟩
    obtain ⟨hline, hrx, hinit, hsend, hclock, -⟩ := hrun.sameWorld_abandonedAt hk
    exact ⟨⟨hline, hrx, hinit, hsend⟩, hclock⟩
  · intro s bytes k rest why hin hd
    exact ⟨_, (step_resetDuring hin).trans (abandon_undefined hd k _), rfl, rfl, rfl, rfl, rfl, rfl, rfl,
      ⟨rfl, rfl, rfl, rfl⟩, Nat.le_add_right _ _⟩

/-- Settles O53, path by path: a command that goes on while Active has a session, and its path contains the
wait in question. -/
theorem lowerBoundsOnDurations : Obligations.LowerBoundsOnDurations := by
  refine ⟨?_, ?_, ?_, ?_, ?_, ?_⟩
  · intro i s t h
    obtain ⟨-, -, hclock⟩ := exec_grows h
    exact hclock
  · intro s t flags bitrate target source h ⟨a, r, hinit⟩
    exact exec_start_clock h hinit
  · intro s t dest src payload h hf h1 h14
    obtain ⟨ss, hs⟩ := exists_session_of_goes_on h rfl hf
    cases (exec_send_legal hf hs dest src ⟨h1, h14⟩).symm.trans h
    exact sendingOf_clock_le _ _ s
  · intro s t timeout dest src payload h hf h1 h14
    obtain ⟨ss, hs⟩ := exists_session_of_goes_on h rfl hf
    exact exec_reqresp_clock hf hs ⟨h1, h14⟩ h
  · intro s t h hf
    obtain ⟨ss, hs⟩ := exists_session_of_goes_on h rfl hf
    obtain ⟨r, q, es, -, -, hrun, hstop⟩ := exec_stop_controlRun hf hs
    cases hstop.symm.trans h
    refine ⟨hrun.clock_le (s.setFsm .stopping), fun hwarn => ?_⟩
    exact hrun.fallback_clock_le (by simpa [newEvents] using hwarn) (s.setFsm .stopping)
  · intro s t h hf
    obtain ⟨ss, hs⟩ := exists_session_of_goes_on h rfl hf
    obtain ⟨r, q, es, -, -, hrun, hidle⟩ := exec_idle_controlRun hf hs
    cases hidle.symm.trans h
    exact hrun.clock_le s

/-- Settles O41: the reset input is delivered to the block alone. -/
theorem resetLeavesIdleAndNoSession : Obligations.ResetLeavesIdleAndNoSession := by
  refine ⟨rfl, rfl, rfl, rfl, rfl, rfl, fun s rest hin => ?_⟩
  exact ⟨(s.fetched rest).resetBlock, step_delivers hin rfl nofun, rfl, rfl, ⟨rfl, rfl, rfl, rfl⟩, rfl, rfl,
    rfl, rfl, rfl, Nat.le_add_right _ _⟩

/-- Settles O43: there is no session, and the histories are empty. -/
theorem resetMeetsTheInvariants : Obligations.ResetMeetsTheInvariants :=
  ⟨sessionOk_of_noSession (.inl rfl) rfl, List.forall_mem_nil _,
    ⟨List.Pairwise.nil, List.forall_mem_nil _, List.forall_mem_nil _⟩, List.forall_mem_nil _⟩

end Sys2Proof.Machine
end
